-- ==== Sys2Proof/Word.lean ====
section
/-! DEFINITION. The two widths of the block: bytes (buffers, one-byte registers, stream bytes) and 16-bit values
(the CRC accumulator and the start register), 00_scope.md R10. -/

namespace Sys2Proof

/-- An unsigned 8-bit value, the spec's `u8` (R10). -/
abbrev Byte := BitVec 8

/-- An unsigned 16-bit value, the spec's `u16` (R10). -/
abbrev Word := BitVec 16

end Sys2Proof
end

