-- ==== Sys2Proof/Syntax.lean ====
section
/-! DEFINITION. The thirteen operations of the block, one constructor per row of spec/opcode_table.json
(30_encoding.md R94). -/

namespace Sys2Proof

/-- An operation with its operands (30_encoding.md R93, R94, R97). -/
inductive Instr where
  /-- CRC.INIT (R126). -/
  | crcInit
  /-- CRC.BYTE b (R127). -/
  | crcByte (b : Byte)
  /-- CRC.RD (R128). -/
  | crcRd
  /-- BUILD.RD addr, start, bc (R144): `bc` is the number of data bytes wanted back. -/
  | buildRd (addr : Byte) (start : Word) (bc : Byte)
  /-- CRC.VERIFY (R129). -/
  | crcVerify
  /-- BUILD.WR addr, start, [data] (R150): the operand `n` is the length of `data`. -/
  | buildWr (addr : Byte) (start : Word) (data : List Byte)
  /-- RX.CLR (R161). -/
  | rxClr
  /-- RX.PUSH b (R162). -/
  | rxPush (b : Byte)
  /-- TX.RD i (R163). -/
  | txRd (i : Byte)
  /-- RES.RD i (R164). -/
  | resRd (i : Byte)
  /-- CHECK (R171). -/
  | check
  /-- EXC.DEC b (R187). -/
  | excDec (b : Byte)
  /-- STAT.RD n (R165). -/
  | statRd (n : Byte)
  deriving DecidableEq, Repr

end Sys2Proof
end

