-- ==== Sys2Proof/WellFormed.lean ====
section
/-! DEFINITION. Which operations a command can express (30_encoding.md R97): the payload length of BUILD.WR is one
byte. -/

namespace Sys2Proof

/-- The operands fit the command format. Only format W can fail: its `n` is one byte, so at most 255 payload bytes
can be presented (30_encoding.md R93, R97). -/
def Instr.wf : Instr → Bool
  | .crcInit => true
  | .crcByte _ => true
  | .crcRd => true
  | .buildRd _ _ _ => true
  | .crcVerify => true
  | .buildWr _ _ data => decide (data.length ≤ 255)
  | .rxClr => true
  | .rxPush _ => true
  | .txRd _ => true
  | .resRd _ => true
  | .check => true
  | .excDec _ => true
  | .statRd _ => true

end Sys2Proof
end

