-- ==== Sys2Proof/Decode.lean ====
section
/-! DEFINITION. The command encoding of 30_encoding.md §5 (R93 to R97, R105): the decoder, total on any bytes, the
encoder, and the 16-bit field assembly of R88 that both use. -/

namespace Sys2Proof

/-- The more significant byte, transmitted first (30_encoding.md R88). -/
def beHi (v : Word) : Byte := v.extractLsb' 8 8

/-- The less significant byte (30_encoding.md R88). -/
def beLo (v : Word) : Byte := v.extractLsb' 0 8

/-- The value `hi * 256 + lo` (30_encoding.md R88). -/
def be16 (hi lo : Byte) : Word := hi ++ lo

/-- The opcodes that 30_encoding.md R94 gives a meaning. -/
inductive Opcode where
  | crcInit | crcByte | crcRd | buildRd | crcVerify | buildWr
  | rxClr | rxPush | txRd | resRd | check | excDec | statRd
  deriving DecidableEq, Repr

/-- The four command formats of 30_encoding.md R93. -/
inductive Format where
  | z | b | r | w
  deriving DecidableEq, Repr

/-- The opcode map: the opcode byte of each operation (30_encoding.md R94). -/
def opcodeByte : Opcode → Byte
  | .crcInit => 0x01
  | .crcByte => 0x02
  | .crcRd => 0x03
  | .buildRd => 0x04
  | .crcVerify => 0x05
  | .buildWr => 0x10
  | .rxClr => 0x20
  | .rxPush => 0x21
  | .txRd => 0x22
  | .resRd => 0x23
  | .check => 0x30
  | .excDec => 0x31
  | .statRd => 0x3F

/-- The opcode map: the format of each operation (30_encoding.md R94). -/
def opcodeFormat : Opcode → Format
  | .crcInit => .z
  | .crcByte => .b
  | .crcRd => .z
  | .buildRd => .r
  | .crcVerify => .z
  | .buildWr => .w
  | .rxClr => .z
  | .rxPush => .b
  | .txRd => .b
  | .resRd => .b
  | .check => .z
  | .excDec => .b
  | .statRd => .b

/-- Every opcode, in the order of the map (30_encoding.md R94). -/
def opcodes : List Opcode :=
  [.crcInit, .crcByte, .crcRd, .buildRd, .crcVerify, .buildWr,
   .rxClr, .rxPush, .txRd, .resRd, .check, .excDec, .statRd]

/-- The opcode a byte stands for, or none: every other byte is illegal (30_encoding.md R96). -/
def opcodeOf (b : Byte) : Option Opcode :=
  opcodes.find? (fun o => opcodeByte o == b)

/-- What the head of the command stream holds (30_encoding.md R95, R96). -/
inductive Decoded where
  /-- A whole command, and the bytes after it. -/
  | command (i : Instr) (rest : List Byte)
  /-- An opcode that is not in the map: that one byte is consumed (R96). -/
  | illegal (opcode : Byte) (rest : List Byte)
  /-- The stream ends inside a command, or holds nothing (R96). -/
  | incomplete
  deriving DecidableEq, Repr

/-- Operand assembly after the opcode byte (30_encoding.md R93, R95, R97). -/
def decodeOperands : Opcode → List Byte → Decoded
  | .crcInit, bs => .command .crcInit bs
  | .crcByte, b :: bs => .command (.crcByte b) bs
  | .crcByte, [] => .incomplete
  | .crcRd, bs => .command .crcRd bs
  | .buildRd, addr :: hi :: lo :: bc :: bs => .command (.buildRd addr (be16 hi lo) bc) bs
  | .buildRd, _ => .incomplete
  | .crcVerify, bs => .command .crcVerify bs
  | .buildWr, addr :: hi :: lo :: n :: bs =>
    if n.toNat ≤ bs.length then
      .command (.buildWr addr (be16 hi lo) (bs.take n.toNat)) (bs.drop n.toNat)
    else .incomplete
  | .buildWr, _ => .incomplete
  | .rxClr, bs => .command .rxClr bs
  | .rxPush, b :: bs => .command (.rxPush b) bs
  | .rxPush, [] => .incomplete
  | .txRd, i :: bs => .command (.txRd i) bs
  | .txRd, [] => .incomplete
  | .resRd, i :: bs => .command (.resRd i) bs
  | .resRd, [] => .incomplete
  | .check, bs => .command .check bs
  | .excDec, b :: bs => .command (.excDec b) bs
  | .excDec, [] => .incomplete
  | .statRd, n :: bs => .command (.statRd n) bs
  | .statRd, [] => .incomplete

/-- The decoder. It reads nothing but the bytes: decoding depends on no state (30_encoding.md R105). -/
def decode : List Byte → Decoded
  | [] => .incomplete
  | op :: bs =>
    match opcodeOf op with
    | none => .illegal op bs
    | some o => decodeOperands o bs

/-- The encoder: the bytes of a command (30_encoding.md R93, R94). -/
def encode : Instr → List Byte
  | .crcInit => [opcodeByte .crcInit]
  | .crcByte b => [opcodeByte .crcByte, b]
  | .crcRd => [opcodeByte .crcRd]
  | .buildRd addr start bc => [opcodeByte .buildRd, addr, beHi start, beLo start, bc]
  | .crcVerify => [opcodeByte .crcVerify]
  | .buildWr addr start data =>
    opcodeByte .buildWr :: addr :: beHi start :: beLo start :: BitVec.ofNat 8 data.length :: data
  | .rxClr => [opcodeByte .rxClr]
  | .rxPush b => [opcodeByte .rxPush, b]
  | .txRd i => [opcodeByte .txRd, i]
  | .resRd i => [opcodeByte .resRd, i]
  | .check => [opcodeByte .check]
  | .excDec b => [opcodeByte .excDec, b]
  | .statRd n => [opcodeByte .statRd, n]

/-- The length of the longest command: format W with 255 payload bytes (30_encoding.md R95). -/
def longestCommand : Nat := 260

/-- `k` bytes of a number, least significant byte first: byte `j` of a command is bits `8j+7 .. 8j` of a word of
spec/opcode_table.json. -/
def bytesOf : Nat → Nat → List Byte
  | 0, _ => []
  | k + 1, w => BitVec.ofNat 8 w :: bytesOf k (w / 256)

/-- The bytes of a table word: every bit at `nbits` and above is 0, up to the longest command. -/
def tableBytes (nbits w : Nat) : List Byte := bytesOf longestCommand (w % 2 ^ nbits)

/-- The operation that the decoder reads from a table word. -/
def decodeTableWord (nbits w : Nat) : Option Instr :=
  match decode (tableBytes nbits w) with
  | .command i _ => some i
  | .illegal _ _ => none
  | .incomplete => none

/-- The bytes of exactly the command at the head of a table word: what is left after it is cut off (R95). An illegal
opcode is one byte (R96). -/
def tableCommand (nbits w : Nat) : List Byte :=
  let bs := tableBytes nbits w
  match decode bs with
  | .command _ rest => bs.take (bs.length - rest.length)
  | .illegal op _ => [op]
  | .incomplete => bs

end Sys2Proof
end

