-- ==== Sys2Proof/Config.lean ====
section
/-! DEFINITION. The parameters the spec leaves open (00_scope.md R9) and the values it leaves free. -/

namespace Sys2Proof

/-- The twelve members of the exception enumeration, in the document's order (30_encoding.md R100, R102). -/
inductive Member where
  | success
  | illegalFunction
  | illegalDataAddress
  | illegalDataValue
  | slaveDeviceFailure
  | acknowledge
  | slaveDeviceBusy
  | negativeAcknowledge
  | memoryParityError
  | gatewayPathUnavailable
  | gatewayTargetFailedToRespond
  | unrecognized
  deriving DecidableEq, Repr

/-- `EXC_MAP`: which byte stands for which named member. A byte with no entry is Unrecognized (30_encoding.md R101). -/
abbrev ExcMap := List (Byte × Member)

/-- What 30_encoding.md R101 asks of any `EXC_MAP`: 0x02 is IllegalDataAddress, one member per byte, each named
member from at most one byte, and no byte is listed as Unrecognized. -/
abbrev ExcMap.wf (m : ExcMap) : Prop :=
  (0x02, Member.illegalDataAddress) ∈ m ∧ (m.map Prod.fst).Nodup ∧ (m.map Prod.snd).Nodup ∧
    Member.unrecognized ∉ m.map Prod.snd

/-- `write_min_len`, the minimum length of a write response: 8 or 5 (92_eei_decisions.md D9). -/
inductive WriteMinLen where
  | eight
  | five
  deriving DecidableEq, Repr

/-- `short_response_policy` of a transaction (44_transaction.md R213). -/
inductive ShortResponsePolicy where
  | timeout
  | validatePartial
  deriving DecidableEq, Repr

/-- The OPEN parameters of 00_scope.md R9, fixed for a machine. -/
structure Config where
  writeMinLen : WriteMinLen
  excMap : ExcMap
  shortResponse : ShortResponsePolicy
  deriving DecidableEq, Repr

/-- DESIGN CHOICE (log 6). The byte that the `k`-th draw of an unspecified register value gives: STAT.RD of a context
register while CTXV = 0 (10_state.md R42). Nothing constrains it. -/
opaque Config.freeByte : Nat → Byte

/-- DESIGN CHOICE (log 17). Whether a byte that arrives exactly at the read deadline is still in time: the document
says "less than" and "more than" only (44_transaction.md R206). Nothing constrains it. -/
opaque Config.atDeadline : Bool

end Sys2Proof
end

