-- ==== Sys2Proof/Machine/Params.lean ====
section
/-! DEFINITION. The defaults of the OPEN parameters (00_scope.md R9). -/

namespace Sys2Proof.Machine

/-- The default `EXC_MAP` (30_encoding.md R101). PRESUMED (log 3) but for 0x02: the spec itself takes these numbers
from general knowledge of Modbus (93_implementation_defined.md G1), and 0x00 is its own choice. -/
def defaultExcMap : ExcMap :=
  [(0x00, .success), (0x01, .illegalFunction), (0x02, .illegalDataAddress), (0x03, .illegalDataValue),
   (0x04, .slaveDeviceFailure), (0x05, .acknowledge), (0x06, .slaveDeviceBusy), (0x07, .negativeAcknowledge),
   (0x08, .memoryParityError), (0x0A, .gatewayPathUnavailable), (0x0B, .gatewayTargetFailedToRespond)]

/-- The parameters at their defaults (00_scope.md R9). -/
def defaultConfig : Config :=
  { writeMinLen := .eight, excMap := defaultExcMap, shortResponse := .timeout }

/-- `write_min_len` as a number (92_eei_decisions.md D9). -/
def minWriteLength : WriteMinLen → Nat
  | .eight => 8
  | .five => 5

end Sys2Proof.Machine
end

