-- ==== Sys2Proof/Machine/State.lean ====
section
/-! DEFINITION. The state of the block (10_state.md R20), the reasons a step can stop, and the state after reset
(10_state.md R41). -/

namespace Sys2Proof.Machine

/-- A buffer: (index, byte) pairs, indices strictly rising, no pair whose byte is what an unlisted index reads as. -/
abbrev Memory := List Host.Cell

/-- The whole state (10_state.md R20), the two streams of 10_state.md R40, and two fields of the model's own. -/
@[ext]
structure State where
  /-- `ACC`, the CRC accumulator (R21). -/
  acc : Word
  /-- `TXBUF`, the request frame (R22). -/
  txbuf : Memory
  /-- `TXLEN` (R23). -/
  txlen : Byte
  /-- `RXBUF`, the response frame (R24). -/
  rxbuf : Memory
  /-- `RXLEN` (R25). -/
  rxlen : Byte
  /-- `STATUS` (R26). -/
  status : Byte
  /-- `CTXV`, request context valid (R27). -/
  ctxv : Bool
  /-- `CRCOK`, the last CRC comparison matched (R27). -/
  crcok : Bool
  /-- `REQ_ADDR` (R28). -/
  reqAddr : Byte
  /-- `REQ_FUNC` (R29). -/
  reqFunc : Byte
  /-- `REQ_START` (R30). -/
  reqStart : Word
  /-- `REQ_BC` (R31). -/
  reqBc : Byte
  /-- `EXPLEN` (R32). -/
  explen : Byte
  /-- `EXC`, the raw exception-code byte (R34). -/
  exc : Byte
  /-- `EXCM`, the member id (R34). -/
  excm : Byte
  /-- `DOFF`, start of the result view (R35). -/
  doff : Byte
  /-- `DLEN`, length of the result view (R35). -/
  dlen : Byte
  /-- The command stream: bytes arrived and not yet consumed, the next one first (R40). -/
  cmdIn : List Byte
  /-- The result stream: bytes put out so far, the first one first (R40). -/
  result : List Byte
  /-- The model's own (log 2): the OPEN parameters, which no step changes (R39). -/
  cfg : Config
  /-- The model's own (log 6): how many free values have been drawn (R42). -/
  draws : Nat
  deriving DecidableEq, Repr

/-- Why a step stops with a fault. -/
inductive Fault where
  /-- RES.RD reaches an index at or past `RXLEN`, where `MemRead` is not defined (00_scope.md R11). No run reaches
  such a state (10_state.md R44). Safe: the model stops (log 7). -/
  | readPastValid
  deriving DecidableEq, Repr

/-- Why a step is refused. -/
inductive Refusal where
  /-- An instruction whose arm of `exec` gives it no meaning. No arm raises it. Safe. -/
  | notModelled (mnemonic : String)
  /-- RX.PUSH with `RXLEN` = 255: the spec gives it no meaning and asks for a refusal (42_buffers.md R162). Safe
  (log 8). -/
  | rxBufferFull
  deriving DecidableEq, Repr

/-- The machine right after reset (10_state.md R41). The context registers, which R41 leaves unspecified, are 0:
DESIGN CHOICE (log 5); the buffers list nothing (log 4); the streams are empty (log 1). -/
def State.reset : State where
  acc := 0xFFFF
  txbuf := []
  txlen := 0
  rxbuf := []
  rxlen := 0
  status := 0x00
  ctxv := false
  crcok := false
  reqAddr := 0
  reqFunc := 0
  reqStart := 0
  reqBc := 0
  explen := 0
  exc := 0
  excm := 0
  doff := 0
  dlen := 0
  cmdIn := []
  result := []
  cfg := defaultConfig
  draws := 0

end Sys2Proof.Machine
end

