-- ==== Sys2Proof/Machine/Ops.lean ====
section
/-! DEFINITION. The named operations over buffers, streams and registers, and taking a condition (60_exceptions.md
R231), which every operation shares. -/

namespace Sys2Proof.Machine

/-- What one operation answers. -/
abbrev Result := Host.Outcome State Fault Refusal

/-! ### Buffers (20_memory.md R50) -/

/-- `TXCAP` = `RXCAP` = 255 (00_scope.md R9). -/
def bufferCap : Nat := 255

/-- DESIGN CHOICE (log 4), unsafe: what a buffer byte reads as that nothing has written. No operation reads one in a
state a run reaches (10_state.md R42). -/
def unwrittenByte : Byte := 0x00

/-- The byte at an index. -/
def Memory.read : Memory → Nat → Byte
  | [], _ => unwrittenByte
  | (a, b) :: m, i => if a = i then b else Memory.read m i

/-- Put a byte in front unless it is what an unlisted index reads as. -/
def Memory.put (i : Nat) (v : Byte) (m : Memory) : Memory :=
  if v = unwrittenByte then m else (i, v) :: m

/-- Write one byte (`MemWrite`, 00_scope.md R11), keeping the canonical form. -/
def Memory.write : Memory → Nat → Byte → Memory
  | [], i, v => Memory.put i v []
  | (a, b) :: m, i, v =>
    if i < a then Memory.put i v ((a, b) :: m)
    else if i = a then Memory.put i v m
    else (a, b) :: Memory.write m i v

/-- Write a byte sequence from an index on. -/
def Memory.writeFrom : Memory → Nat → List Byte → Memory
  | m, _, [] => m
  | m, i, v :: vs => Memory.writeFrom (Memory.write m i v) (i + 1) vs

/-- Read `k` bytes from an index on. -/
def Memory.readRange (m : Memory) : Nat → Nat → List Byte
  | _, 0 => []
  | i, k + 1 => Memory.read m i :: Memory.readRange m (i + 1) k

/-- The canonical form: indices strictly rising and inside the buffer, no entry an unlisted index would read as. -/
abbrev Memory.wf (m : Memory) : Prop :=
  m.Pairwise (fun x y => x.1 < y.1) ∧ ∀ c ∈ m, c.1 < bufferCap ∧ c.2 ≠ unwrittenByte

/-- The byte at an index of a byte sequence, read below its length only (00_scope.md R10). -/
def byteAt (r : List Byte) (i : Nat) : Byte := r.getD i 0

/-- `TXBUF[0..TXLEN)`, the valid request bytes (10_state.md R23). -/
def txFrame (s : State) : List Byte := Memory.readRange s.txbuf 0 s.txlen.toNat

/-- `RXBUF[0..RXLEN)`, the valid response bytes (10_state.md R25). -/
def rxFrame (s : State) : List Byte := Memory.readRange s.rxbuf 0 s.rxlen.toNat

/-! ### Streams (10_state.md R40) -/

/-- `out(v)`: append one byte to the result stream (00_scope.md R11). -/
def out (v : Byte) (s : State) : State := { s with result := s.result ++ [v] }

/-- Leave `rest` on the command stream: what was before it has been consumed (30_encoding.md R95). -/
def consumeTo (rest : List Byte) (s : State) : State := { s with cmdIn := rest }

/-- The host puts bytes on the command stream (10_state.md R40). -/
def hostSend (bs : List Byte) (s : State) : State := { s with cmdIn := s.cmdIn ++ bs }

/-- The stream ends inside a command: the block waits, and nothing happens (30_encoding.md R96). -/
def waitForBytes (s : State) : Result := .next s

/-- DEDUCED (log 11). The reset input: the state of 10_state.md R41, a partly received command discarded
(70_reset_and_hazards.md R260). Bytes already put out, the parameters and the draws stay. -/
def hostReset (s : State) : State :=
  { State.reset with result := s.result, cfg := s.cfg, draws := s.draws }

/-! ### Conditions (60_exceptions.md §2) -/

/-- The conditions an operation can raise (60_exceptions.md R232). -/
inductive Condition where
  | argAddress
  | argEmpty
  | argOdd
  | argTooLong
  | respShort
  | addrMismatch
  | function
  | byteCount
  | length
  | crc
  | echo
  | noCtx
  | illegalCmd
  | index
  deriving DecidableEq, Repr

/-- The STATUS code of a condition (60_exceptions.md R232). -/
def conditionCode : Condition → Byte
  | .argAddress => 0x10
  | .argEmpty => 0x11
  | .argOdd => 0x12
  | .argTooLong => 0x13
  | .respShort => 0x20
  | .addrMismatch => 0x21
  | .function => 0x22
  | .byteCount => 0x23
  | .length => 0x24
  | .crc => 0x25
  | .echo => 0x26
  | .noCtx => 0x30
  | .illegalCmd => 0x31
  | .index => 0x32

/-- `ST_IDLE` (60_exceptions.md R232). -/
def stIdle : Byte := 0x00

/-- `ST_BUILT` (60_exceptions.md R232). -/
def stBuilt : Byte := 0x01

/-- `ST_SUCCESS` (60_exceptions.md R232). -/
def stSuccess : Byte := 0x02

/-- `ST_DEVEXC` (60_exceptions.md R232). -/
def stDevExc : Byte := 0x03

/-- Taking a condition (60_exceptions.md R231, R240): STATUS gets the code and the operation ends. Nothing is saved,
there is no mode, handler or vector, and no return from it (R241): the block is at once ready for the next
operation. -/
def raise (c : Condition) (s : State) : Result := .next { s with status := conditionCode c }

/-- An opcode byte that is not in the map (30_encoding.md R96); the byte is already consumed. -/
def illegalCommand (s : State) : Result := raise .illegalCmd s

/-! ### Registers -/

/-- Withdraw the result view: DOFF and DLEN (10_state.md R35). -/
def clearView (s : State) : State := { s with doff := 0, dlen := 0 }

/-- Clear the result registers at the start of BUILD and CHECK (10_state.md R34, R35; 92_eei_decisions.md D26). -/
def clearResult (s : State) : State := { clearView s with exc := 0x00, excm := 0 }

/-- A draw of an unspecified register value (10_state.md R42): the byte is free (log 6). -/
def drawOut (s : State) : State := out (Config.freeByte s.draws) { s with draws := s.draws + 1 }

/-- Go on with `f` after an operation that answered a next state. -/
def andThen {α β : Type} (o : Host.Outcome α Fault Refusal) (f : α → Host.Outcome β Fault Refusal) :
    Host.Outcome β Fault Refusal :=
  match o with
  | .next a => f a
  | .fault r => .fault r
  | .refused r => .refused r

end Sys2Proof.Machine
end

