-- ==== Sys2Proof/Machine/CrcCore.lean ====
section
/-! DEFINITION. The CRC-16 algorithm as pure functions (40_crc.md R120 to R125). -/

namespace Sys2Proof.Machine

/-- `CRC_POLY` (00_scope.md R8): XORed after a right shift. Never a CCITT polynomial (R2). -/
def crcPoly : Word := 0xA001

/-- `CRC_INIT` (00_scope.md R8). -/
def crcInitValue : Word := 0xFFFF

/-- One iteration: the low bit is tested before the shift, the XOR is applied after it (40_crc.md R122). -/
def crcShift (a : Word) : Word := if a.getLsbD 0 then (a >>> 1) ^^^ crcPoly else a >>> 1

/-- `n` iterations. -/
def crcShifts : Nat → Word → Word
  | 0, a => a
  | n + 1, a => crcShifts n (crcShift a)

/-- One byte: XOR into the low byte, then eight iterations (40_crc.md R123). -/
def crcByte (a : Word) (b : Byte) : Word := crcShifts 8 (a ^^^ b.setWidth 16)

/-- Continue a calculation over a byte sequence (40_crc.md R131 (d)). -/
def crcFrom (a : Word) (bs : List Byte) : Word := bs.foldl crcByte a

/-- The CRC of a whole sequence (40_crc.md R124). -/
def crc16 (bs : List Byte) : Word := crcFrom crcInitValue bs

/-- The byte transmitted first (40_crc.md R125). -/
def crcLo (c : Word) : Byte := c.extractLsb' 0 8

/-- The byte transmitted second (40_crc.md R125). -/
def crcHi (c : Word) : Byte := c.extractLsb' 8 8

/-- A message with its CRC trailer, low byte first (30_encoding.md R92). -/
def withCrc (m : List Byte) : List Byte := m ++ [crcLo (crc16 m), crcHi (crc16 m)]

/-- All bytes of a frame but the trailing two (30_encoding.md R80). -/
def frameBody (r : List Byte) : List Byte := r.take (r.length - 2)

/-- The CRC a frame carries in its trailing two bytes (30_encoding.md R92). -/
def frameCrc (r : List Byte) : Word := be16 (byteAt r (r.length - 1)) (byteAt r (r.length - 2))

end Sys2Proof.Machine
end

