-- ==== Sys2Proof/Machine/Operands.lean ====
section
/-! DEFINITION. The operand forms: an index into TXBUF, an index into the result view, the implicit push address, the
status registers by number (42_buffers.md R160; 10_state.md R36), and the exception enumeration (30_encoding.md R101,
R102). -/

namespace Sys2Proof.Machine

/-- TX.RD's operand: the byte of TXBUF at an index below TXLEN (42_buffers.md R163). -/
def txOperand (s : State) (i : Byte) : Option Byte :=
  if s.txlen.toNat ≤ i.toNat then none else some (Memory.read s.txbuf i.toNat)

/-- Where RES.RD's operand lies in RXBUF: the index added to DOFF (42_buffers.md R160, R164). -/
def resAddress (s : State) (i : Byte) : Nat := s.doff.toNat + i.toNat

/-- Where RX.PUSH stores: at RXLEN (42_buffers.md R160, R162). -/
def pushAddress (s : State) : Nat := s.rxlen.toNat

/-- FLAGS, status register 0x01: bit 0 is CTXV, bit 1 is CRCOK, the others are 0 (10_state.md R36). -/
def flagsByte (s : State) : Byte :=
  (if s.ctxv then 0x01 else 0x00) ||| (if s.crcok then 0x02 else 0x00)

/-- The status registers by number (10_state.md R36). Numbers above 0x0F name none. -/
def statusRegister (s : State) (n : Nat) : Option Byte :=
  match n with
  | 0x00 => some s.status
  | 0x01 => some (flagsByte s)
  | 0x02 => some s.exc
  | 0x03 => some s.excm
  | 0x04 => some s.txlen
  | 0x05 => some s.rxlen
  | 0x06 => some s.doff
  | 0x07 => some s.dlen
  | 0x08 => some s.reqAddr
  | 0x09 => some s.reqFunc
  | 0x0A => some (beHi s.reqStart)
  | 0x0B => some (beLo s.reqStart)
  | 0x0C => some s.reqBc
  | 0x0D => some s.explen
  | 0x0E => some (beLo s.acc)
  | 0x0F => some (beHi s.acc)
  | _ => none

/-- The registers of the request context, unspecified while CTXV = 0 (10_state.md R33, R36). -/
def isContextRegister (n : Nat) : Bool := 0x08 ≤ n && n ≤ 0x0D

/-- The exception-code validator, total on all bytes: a byte with no entry is Unrecognized (30_encoding.md R101). -/
def excMember (m : ExcMap) (b : Byte) : Member :=
  match m.find? (fun e => e.1 == b) with
  | some e => e.2
  | none => .unrecognized

/-- The member id held in EXCM: the position in the document's list (30_encoding.md R102). -/
def memberId : Member → Byte
  | .success => 0
  | .illegalFunction => 1
  | .illegalDataAddress => 2
  | .illegalDataValue => 3
  | .slaveDeviceFailure => 4
  | .acknowledge => 5
  | .slaveDeviceBusy => 6
  | .negativeAcknowledge => 7
  | .memoryParityError => 8
  | .gatewayPathUnavailable => 9
  | .gatewayTargetFailedToRespond => 10
  | .unrecognized => 11

/-- Put an exception-code byte and its member into EXC and EXCM (10_state.md R34). -/
def classify (raw : Byte) (s : State) : State :=
  { s with exc := raw, excm := memberId (excMember s.cfg.excMap raw) }

end Sys2Proof.Machine
end

