-- ==== Sys2Proof/Machine/Buffers.lean ====
section
/-! DEFINITION. Buffer and status access: RX.CLR, RX.PUSH, TX.RD, RES.RD, STAT.RD (42_buffers.md). -/

namespace Sys2Proof.Machine

/-- RX.CLR (42_buffers.md R161). DESIGN CHOICE (log 22): the bytes of RXBUF, which R161 and 10_state.md R25 call
unspecified from here on, stay as they were. -/
def execRxClr (s : State) : Result := .next { clearView s with rxlen := 0 }

/-- RX.PUSH b; on a full buffer the spec gives it no meaning and asks for a refusal (42_buffers.md R162, log 8). -/
def execRxPush (b : Byte) (s : State) : Result :=
  if s.rxlen = 255 then .refused .rxBufferFull
  else .next { clearView s with rxbuf := Memory.write s.rxbuf (pushAddress s) b, rxlen := s.rxlen + 1 }

/-- TX.RD i (42_buffers.md R163). -/
def execTxRd (i : Byte) (s : State) : Result :=
  match txOperand s i with
  | none => raise .index s
  | some v => .next (out v s)

/-- RES.RD i (42_buffers.md R164). `MemRead` is defined only below RXLEN (00_scope.md R11): past it, in states no run
reaches, the model faults (log 7). -/
def execResRd (i : Byte) (s : State) : Result :=
  if s.dlen.toNat ≤ i.toNat then raise .index s
  else if s.rxlen.toNat ≤ resAddress s i then .fault .readPastValid
  else .next (out (Memory.read s.rxbuf (resAddress s i)) s)

/-- STAT.RD n (42_buffers.md R165). A context register while CTXV = 0 gives any byte (10_state.md R42, log 6). -/
def execStatRd (n : Byte) (s : State) : Result :=
  match statusRegister s n.toNat with
  | none => raise .index s
  | some v => .next (if isContextRegister n.toNat && !s.ctxv then drawOut s else out v s)

end Sys2Proof.Machine
end

