-- ==== Sys2Proof/Machine/Flags.lean ====
section
/-! DEFINITION. The flag computations: CRCOK and CTXV are the block's only flags (10_state.md R27). -/

namespace Sys2Proof.Machine

/-- The CRC comparison: the recomputed CRC equals the two trailing bytes, low byte first (43_check.md R182;
40_crc.md R129). -/
def crcOk (r : List Byte) : Bool :=
  crcLo (crc16 (frameBody r)) == byteAt r (r.length - 2) && crcHi (crc16 (frameBody r)) == byteAt r (r.length - 1)

/-- Make the CRC comparison over a frame: ACC gets the recomputed CRC, CRCOK the outcome (43_check.md R182;
40_crc.md R129). -/
def compareCrc (r : List Byte) (s : State) : State :=
  { s with acc := crc16 (frameBody r), crcok := crcOk r }

/-- The request context becomes invalid (10_state.md R27, R33). -/
def dropContext (s : State) : State := { s with ctxv := false }

end Sys2Proof.Machine
end

