-- ==== Sys2Proof/Machine/Build.lean ====
section
/-! DEFINITION. The request framer: BUILD.RD and BUILD.WR (41_build.md). -/

namespace Sys2Proof.Machine

/-- Which request is built (41_build.md R141). -/
inductive RequestKind where
  | read
  | write
  deriving DecidableEq, Repr

/-- `FN_READ` and `FN_WRITE` (00_scope.md R8). -/
def functionCode : RequestKind → Byte
  | .read => 0x04
  | .write => 0x10

/-- `RD_MAX_BYTES` and `WR_MAX_BYTES` (00_scope.md R8). -/
def maxBytes : RequestKind → Nat
  | .read => 250
  | .write => 246

/-- The argument checks, in their order (41_build.md R141): none is OK. -/
def argCheck (kind : RequestKind) (addr : Byte) (bytes : Nat) : Option Condition :=
  if addr.toNat < 1 ∨ 247 < addr.toNat then some .argAddress
  else if bytes = 0 then some .argEmpty
  else if bytes % 2 = 1 then some .argOdd
  else if maxBytes kind < bytes then some .argTooLong
  else none

/-- The effect of an argument error (41_build.md R151). -/
def argFail (c : Condition) (s : State) : Result :=
  raise c (dropContext { clearResult s with txlen := 0 })

/-- The register count of a byte count (41_build.md R147). -/
def registerCount (bytes : Nat) : Word := BitVec.ofNat 16 (bytes / 2)

/-- The read request frame (41_build.md R143). -/
def readRequest (addr : Byte) (start : Word) (bc : Byte) : List Byte :=
  let count := registerCount bc.toNat
  withCrc [addr, functionCode .read, beHi start, beLo start, beHi count, beLo count]

/-- The write request frame (41_build.md R149). -/
def writeRequest (addr : Byte) (start : Word) (data : List Byte) : List Byte :=
  let count := registerCount data.length
  withCrc ([addr, functionCode .write, beHi start, beLo start, beHi count, beLo count,
    BitVec.ofNat 8 data.length] ++ data)

/-- The expected response length: 3 + bc + 2 for a read (41_build.md R145), 8 for a write (R146). -/
def expectedLength : RequestKind → Byte → Byte
  | .read, bc => 3 + bc + 2
  | .write, _ => 8

/-- Put an assembled frame into TXBUF and latch its request context (41_build.md R144, R150). DESIGN CHOICE (log 22):
the bytes of TXBUF past the frame, which 10_state.md R23 leaves unspecified, stay as they were. -/
def latchRequest (kind : RequestKind) (addr : Byte) (start : Word) (bc : Byte) (frame : List Byte) (s : State) :
    State :=
  { clearResult s with
    txbuf := Memory.writeFrom s.txbuf 0 frame
    txlen := BitVec.ofNat 8 frame.length
    acc := frameCrc frame
    reqAddr := addr
    reqFunc := functionCode kind
    reqStart := start
    reqBc := bc
    explen := expectedLength kind bc
    ctxv := true
    status := stBuilt }

/-- BUILD.RD addr, start, bc (41_build.md R144). -/
def execBuildRd (addr : Byte) (start : Word) (bc : Byte) (s : State) : Result :=
  match argCheck .read addr bc.toNat with
  | some c => argFail c s
  | none => .next (latchRequest .read addr start bc (readRequest addr start bc) s)

/-- BUILD.WR addr, start, [data] (41_build.md R150). -/
def execBuildWr (addr : Byte) (start : Word) (data : List Byte) (s : State) : Result :=
  match argCheck .write addr data.length with
  | some c => argFail c s
  | none =>
    .next (latchRequest .write addr start (BitVec.ofNat 8 data.length) (writeRequest addr start data) s)

end Sys2Proof.Machine
end

