-- ==== Sys2Proof/Machine/Check.lean ====
section
/-! DEFINITION. The response validator CHECK and the exception-code validator EXC.DEC (43_check.md). -/

namespace Sys2Proof.Machine

/-- The request record the validators compare against (43_check.md §3). -/
structure RequestContext where
  addr : Byte
  start : Word
  bc : Byte
  explen : Byte
  deriving DecidableEq, Repr

/-- The outcome of a validator (43_check.md §3). -/
inductive Verdict where
  /-- The data are `r[off .. off+len)`. -/
  | success (off len : Byte)
  /-- A device exception with its raw code: a result, no error (60_exceptions.md R235). -/
  | devExc (raw : Byte)
  | err (c : Condition)
  deriving DecidableEq, Repr

/-- The read validator (43_check.md R176): stages S1 to S8 in their order (R172). S5b is written as in R176, with
5 + bc (log 12). -/
def checkRead (ctx : RequestContext) (r : List Byte) : Verdict :=
  if r.length < 5 then .err .respShort
  else if byteAt r 0 ≠ ctx.addr then .err .addrMismatch
  else if (byteAt r 1).getLsbD 7 then .devExc (byteAt r 2)
  else if byteAt r 1 ≠ 0x04 then .err .function
  else if byteAt r 2 ≠ ctx.bc then .err .byteCount
  else if r.length ≠ 5 + ctx.bc.toNat then .err .length
  else if crcOk r = false then .err .crc
  else .success 3 ctx.bc

/-- The write validator (43_check.md R180) for a given minimum length. -/
def checkWrite (minLength : Nat) (ctx : RequestContext) (r : List Byte) : Verdict :=
  if r.length < minLength then .err .respShort
  else if byteAt r 0 ≠ ctx.addr then .err .addrMismatch
  else if (byteAt r 1).getLsbD 7 then .devExc (byteAt r 2)
  else if byteAt r 1 ≠ 0x10 then .err .function
  else if r.length < 8 then .err .length
  else if crcOk r = false then .err .crc
  else if be16 (byteAt r 2) (byteAt r 3) ≠ ctx.start then .err .echo
  else .success 2 4

/-- Stage S6 was reached exactly on these outcomes (43_check.md §3). -/
def reachedCrcStage : Verdict → Bool
  | .success _ _ => true
  | .devExc _ => false
  | .err c => c == .crc || c == .echo

/-- The request context as CHECK reads it (43_check.md R171). -/
def requestContext (s : State) : RequestContext :=
  { addr := s.reqAddr, start := s.reqStart, bc := s.reqBc, explen := s.explen }

/-- The validator's outcome; REQ_FUNC selects the validator (43_check.md R171). Any value but 0x04 selects the write
validator, as R171's pseudocode has it (log 13). -/
def judge (minLength : Nat) (s : State) : Verdict :=
  if s.reqFunc = 0x04 then checkRead (requestContext s) (rxFrame s)
  else checkWrite minLength (requestContext s) (rxFrame s)

/-- What each outcome does to the state (43_check.md R171). -/
def report : Verdict → State → Result
  | .success off len, s => .next { s with doff := off, dlen := len, status := stSuccess }
  | .devExc raw, s => .next { classify raw s with status := stDevExc }
  | .err c, s => raise c s

/-- CHECK under a given minimum length of a write response (43_check.md R171). -/
def checkWith (minLength : Nat) (s : State) : Result :=
  if s.ctxv then
    let v := judge minLength s
    let s1 := clearResult s
    report v (if reachedCrcStage v then compareCrc (rxFrame s) s1 else s1)
  else raise .noCtx (clearResult s)

/-- CHECK (43_check.md R171), with `write_min_len` as the machine has it (R173). -/
def execCheck (s : State) : Result := checkWith (minWriteLength s.cfg.writeMinLen) s

/-- EXC.DEC b (43_check.md R187). -/
def execExcDec (b : Byte) (s : State) : Result :=
  let t := classify b s
  .next (out t.excm t)

end Sys2Proof.Machine
end

