-- ==== Sys2Proof/Machine/Crc.lean ====
section
/-! DEFINITION. The CRC family: CRC.INIT, CRC.BYTE, CRC.RD, CRC.VERIFY (40_crc.md §2). -/

namespace Sys2Proof.Machine

/-- CRC.INIT (40_crc.md R126). -/
def execCrcInit (s : State) : Result := .next { s with acc := crcInitValue }

/-- CRC.BYTE b: continues from whatever ACC holds (40_crc.md R127). -/
def execCrcByte (b : Byte) (s : State) : Result := .next { s with acc := crcByte s.acc b }

/-- CRC.RD: wire order, low byte first (40_crc.md R128). -/
def execCrcRd (s : State) : Result := .next (out (crcHi s.acc) (out (crcLo s.acc) s))

/-- CRC.VERIFY: a mismatch is no raise; fewer than two bytes are (40_crc.md R129). -/
def execCrcVerify (s : State) : Result :=
  if s.rxlen.toNat < 2 then raise .respShort { s with crcok := false }
  else .next (compareCrc (rxFrame s) s)

end Sys2Proof.Machine
end

