-- ==== Sys2Proof/Machine/Dispatch.lean ====
section
/-! DEFINITION. One arm per operation of 30_encoding.md R94. -/

namespace Sys2Proof.Machine

def exec (i : Instr) (s : State) : Host.Outcome State Fault Refusal :=
  match i with
  | .crcInit => Sys2Proof.Machine.execCrcInit s
  | .crcByte b => Sys2Proof.Machine.execCrcByte b s
  | .crcRd => Sys2Proof.Machine.execCrcRd s
  | .buildRd addr start bc => Sys2Proof.Machine.execBuildRd addr start bc s
  | .crcVerify => Sys2Proof.Machine.execCrcVerify s
  | .buildWr addr start data => Sys2Proof.Machine.execBuildWr addr start data s
  | .rxClr => Sys2Proof.Machine.execRxClr s
  | .rxPush b => Sys2Proof.Machine.execRxPush b s
  | .txRd k => Sys2Proof.Machine.execTxRd k s
  | .resRd k => Sys2Proof.Machine.execResRd k s
  | .check => Sys2Proof.Machine.execCheck s
  | .excDec b => Sys2Proof.Machine.execExcDec b s
  | .statRd n => Sys2Proof.Machine.execStatRd n s

end Sys2Proof.Machine
end

