-- ==== Sys2Proof/Machine/Step.lean ====
section
/-! DEFINITION. One step of the block: take the command at the head of the command stream and run it
(10_state.md R38; 30_encoding.md R95, R96). -/

namespace Sys2Proof.Machine

/-- One step. A whole command is consumed and executed; an illegal opcode byte is consumed and raises; with no whole
command on the stream the block waits (30_encoding.md R96; log 9). -/
def step (s : State) : Host.Outcome State Fault Refusal :=
  match decode s.cmdIn with
  | .command i rest => exec i (consumeTo rest s)
  | .illegal _ rest => illegalCommand (consumeTo rest s)
  | .incomplete => waitForBytes s

/-- The state with the command of a table word next on the command stream, before whatever is already there
(log 10). -/
def State.withFetchWord (s : State) (nbits w : Nat) : State :=
  { s with cmdIn := tableCommand nbits w ++ s.cmdIn }

end Sys2Proof.Machine
end

