-- ==== Sys2Proof/Machine/Pseudo.lean ====
section
/-! DEFINITION. Runs of operations and the pseudo-operations of 30_encoding.md R104. -/

namespace Sys2Proof.Machine

/-- Run operations one after another (00_scope.md R12). -/
def runOps : List Instr → State → Result
  | [], s => .next s
  | i :: is, s => andThen (exec i s) (runOps is)

/-- Run operations and give, beside the state, the bytes they put on the result stream (10_state.md R40). -/
def collectOutput (ops : List Instr) (s : State) : Host.Outcome (State × List Byte) Fault Refusal :=
  andThen (runOps ops s) fun t => .next (t, t.result.drop s.result.length)

/-- CRC.CALC [b0 ... b(k-1)], the document's Calculate (30_encoding.md R104; 40_crc.md R130). -/
def crcCalc (bs : List Byte) : List Instr := .crcInit :: bs.map .crcByte

/-- RX.LOAD [b0 ... b(k-1)] (30_encoding.md R104). -/
def rxLoad (bs : List Byte) : List Instr := .rxClr :: bs.map .rxPush

/-- TX.DUMP: `TX.RD 0 .. TX.RD (TXLEN-1)` (30_encoding.md R104). -/
def txDump (s : State) : List Instr := (List.range s.txlen.toNat).map (fun k => .txRd (BitVec.ofNat 8 k))

/-- RES.DUMP: `RES.RD 0 .. RES.RD (DLEN-1)` (30_encoding.md R104). -/
def resDump (s : State) : List Instr := (List.range s.dlen.toNat).map (fun k => .resRd (BitVec.ofNat 8 k))

end Sys2Proof.Machine
end

