-- ==== Sys2Proof/Machine/Transport.lean ====
section
/-! DEFINITION. The transport of 44_transaction.md §1: the environment's byte channel, no part of the block's state
(10_state.md R39; log 15). What the line and the operating system do is an argument of each call. -/

namespace Sys2Proof.Machine

/-- The failures of `Write` and `ReadExact`, the only kinds a transaction can end in (44_transaction.md R214). -/
inductive IoError where
  | notOpen
  | ioFailure
  | zeroByteRead
  | emptyWrite
  deriving DecidableEq, Repr

/-- The failures of the handle's calls (44_transaction.md R202, R214). -/
inductive TransportError where
  | io (e : IoError)
  /-- Only `Open` reports it (R214). -/
  | alreadyOpen
  /-- DESIGN CHOICE (log 18): a `ReadExact` of no bytes or with no read-timeout, and the writing of a read-timeout of
  0; the document does not say which call reports these. No transaction makes such a call. -/
  | badArgument
  deriving DecidableEq, Repr

/-- The transport handle (44_transaction.md R201), with its pending bytes and how often the underlying resource was
taken and released (R203). -/
structure Handle where
  name : String
  isOpen : Bool
  readTimeout : Nat
  writeTimeout : Nat
  input : List Byte
  output : List Byte
  opened : Nat
  released : Nat
  deriving DecidableEq, Repr

/-- A handle is constructed closed (44_transaction.md R201). DESIGN CHOICE (log 18): a read-timeout of 0, which R201
excludes, is not rejected here, since no call is named that rejects it; it is reported when it is used. -/
def newHandle (name : String) (readTimeout writeTimeout : Nat) : Handle where
  name := name
  isOpen := false
  readTimeout := readTimeout
  writeTimeout := writeTimeout
  input := []
  output := []
  opened := 0
  released := 0

/-- Write the read-timeout (44_transaction.md R209: "readable/writable", above 0). What a value that is not positive
does is DESIGN CHOICE (log 18). That it can be written while the handle is closed as well is DESIGN CHOICE (log 24). -/
def setReadTimeout (milliseconds : Nat) (h : Handle) : Except TransportError Handle :=
  if milliseconds = 0 then .error .badArgument else .ok { h with readTimeout := milliseconds }

/-- Drop the pending bytes of both directions. -/
def dropBuffers (h : Handle) : Handle := { h with input := [], output := [] }

/-- `Open()` (44_transaction.md R202). `ok` is what the underlying open call answers. -/
def openHandle (ok : Bool) (h : Handle) : Except TransportError Handle :=
  if h.isOpen then .error .alreadyOpen
  else if ok then .ok { dropBuffers h with isOpen := true, opened := h.opened + 1 }
  else .error (.io .ioFailure)

/-- `Close()` and disposal: idempotent; discards buffers, then releases, and swallows any failure
(44_transaction.md R201, R203). -/
def closeHandle (h : Handle) : Handle :=
  if h.isOpen then { dropBuffers h with isOpen := false, released := h.released + 1 } else h

/-- `DiscardBuffers()`: a no-op, not an error, if not open (44_transaction.md R207). -/
def discardBuffers (h : Handle) : Handle := if h.isOpen then dropBuffers h else h

/-- Bytes arrive from the line: the handle buffers them until they are read or discarded. -/
def deliver (bs : List Byte) (h : Handle) : Handle := { h with input := h.input ++ bs }

/-- What the line does with a write. How many bytes had gone out when a write ends early is the line's answer: the
document does not say (log 23). -/
inductive LineWrite where
  | done
  | deadline (sent : Nat)
  | failed (sent : Nat)
  deriving DecidableEq, Repr

/-- The answer of `Write` (44_transaction.md R204). -/
inductive WriteAnswer where
  | written (count : Nat)
  | timeout
  | failure (e : IoError)
  deriving DecidableEq, Repr

/-- Bytes go out to the line, and stay among the pending output: DESIGN CHOICE (log 25). -/
def send (bs : List Byte) (h : Handle) : Handle := { h with output := h.output ++ bs }

/-- `Write(bytes)` (44_transaction.md R204). A write that ends early leaves sent whatever number of leading bytes the
line says, DESIGN CHOICE (log 23). What was sent counts as pending output, after a completed write too, until
`DiscardBuffers`, `Open` or `Close` drops it: DESIGN CHOICE (log 25). The empty input is tested before the open state:
the order of the sentence, DEDUCED (log 18). -/
def writeHandle (line : LineWrite) (bytes : List Byte) (h : Handle) : WriteAnswer × Handle :=
  if bytes.isEmpty then (.failure .emptyWrite, h)
  else if h.isOpen then
    match line with
    | .done => (.written bytes.length, send bytes h)
    | .deadline sent => (.timeout, send (bytes.take sent) h)
    | .failed sent => (.failure .ioFailure, send (bytes.take sent) h)
  else (.failure .notOpen, h)

/-- `ReadAvailable()`: everything buffered, with what the channel has ready at the call, possibly nothing
(44_transaction.md R205). `ready` is the channel's. -/
def readAvailable (ready : List Byte) (h : Handle) : Except TransportError (List Byte × Handle) :=
  if h.isOpen then .ok ((deliver ready h).input, { h with input := [] }) else .error (.io .notOpen)

/-- One read of the underlying channel: when it answers, in milliseconds since the call, and with what. -/
inductive LineRead where
  | bytes (elapsed : Nat) (bs : List Byte)
  | failed
  deriving DecidableEq, Repr

/-- The answer of `ReadExact` (44_transaction.md R206). A timeout carries the bytes collected: their number is what
the document reports, the bytes themselves serve only `validate_partial` (R213). -/
inductive ReadAnswer where
  | bytes (bs : List Byte)
  | timeout (collected : List Byte)
  | failure (e : IoError)
  deriving DecidableEq, Repr

/-- Whether an answer at `elapsed` is inside the deadline (44_transaction.md R206). At the very deadline it is free
(log 17). -/
def inTime (elapsed deadline : Nat) : Bool :=
  decide (elapsed < deadline) || (decide (elapsed = deadline) && Config.atDeadline)

/-- The accumulation loop of `ReadExact` (44_transaction.md R206): the answer, and the bytes past the `n` asked for,
which stay in the transport (91_not_in_source.md N30). When the line answers no more, the deadline elapses. -/
def collect (n deadline : Nat) : List LineRead → List Byte → ReadAnswer × List Byte
  | [], acc => (.timeout acc, [])
  | .failed :: _, _ => (.failure .ioFailure, [])
  | .bytes elapsed bs :: rs, acc =>
    if inTime elapsed deadline then
      if bs.isEmpty then (.failure .zeroByteRead, [])
      else if n ≤ (acc ++ bs).length then (.bytes ((acc ++ bs).take n), (acc ++ bs).drop n)
      else collect n deadline rs (acc ++ bs)
    else (.timeout acc, bs)

/-- The body of `ReadExact(n)` (44_transaction.md R206). Bytes left over from before are read first
(91_not_in_source.md N16). -/
def readLoop (n : Nat) (line : List LineRead) (h : Handle) : ReadAnswer × Handle :=
  if h.isOpen then
    if n ≤ h.input.length then (.bytes (h.input.take n), { h with input := h.input.drop n })
    else
      let (answer, rest) := collect n h.readTimeout line h.input
      (answer, { h with input := rest })
  else (.failure .notOpen, h)

/-- `ReadExact(n)`: on an open handle `n` and the read-timeout must be positive (44_transaction.md R206; log 18). -/
def readExact (n : Nat) (line : List LineRead) (h : Handle) : Except TransportError (ReadAnswer × Handle) :=
  if h.isOpen ∧ (n = 0 ∨ h.readTimeout = 0) then .error .badArgument else .ok (readLoop n line h)

/-- What 44_transaction.md R206 asks of every answer to `ReadExact(n)`: exactly `n` bytes, or a timeout with fewer. -/
def ReadAnswer.fits (n : Nat) : ReadAnswer → Prop
  | .bytes bs => bs.length = n
  | .timeout collected => collected.length < n
  | .failure _ => True

/-- The accumulation loop keeps that contract. -/
theorem fits_collect (n deadline : Nat) (line : List LineRead) (acc : List Byte) (h : acc.length < n) :
    (collect n deadline line acc).1.fits n := by
  induction line generalizing acc with
  | nil => exact h
  | cons r rs ih =>
    cases r with
    | failed => trivial
    | bytes elapsed bs =>
      unfold collect
      split
      · split
        · trivial
        split
        · exact List.length_take_of_le ‹_›
        · exact ih _ (by omega)
      · exact h

/-- So does the body of `ReadExact`, in every state of the handle. -/
theorem fits_readLoop (n : Nat) (line : List LineRead) (h : Handle) : (readLoop n line h).1.fits n := by
  unfold readLoop
  split
  · split
    · exact List.length_take_of_le ‹_›
    · exact fits_collect n h.readTimeout line h.input (by omega)
  · trivial

/-- What 44_transaction.md R204 asks of every answer to `Write`: all bytes are written, or none is counted. -/
def WriteAnswer.fits (bytes : List Byte) : WriteAnswer → Prop
  | .written count => count = bytes.length
  | .timeout => True
  | .failure _ => True

/-- `Write` keeps that contract. -/
theorem fits_writeHandle (line : LineWrite) (bytes : List Byte) (h : Handle) :
    (writeHandle line bytes h).1.fits bytes := by
  unfold writeHandle
  split
  · trivial
  split
  · cases line <;> trivial
  · trivial

end Sys2Proof.Machine
end

