-- ==== Sys2Proof/Machine/Transaction.lean ====
section
/-! DEFINITION. The transactions XACT.WR and XACT.RD (44_transaction.md R211, R212): procedures over the block's
operations and an oracle for the transport (00_scope.md R6). -/

namespace Sys2Proof.Machine

/-- The transport as an oracle: its answer to `Write`, and to `ReadExact`, any answers that keep the contract of
44_transaction.md R204, R206 and R209. It is an argument of a transaction, no part of any state. -/
structure Oracle where
  write : List Byte → WriteAnswer
  readExact : Nat → ReadAnswer
  write_fits : ∀ bytes, (write bytes).fits bytes
  readExact_fits : ∀ n, (readExact n).fits n

/-- Which transport call timed out (44_transaction.md R214). -/
inductive Phase where
  | write
  | read
  deriving DecidableEq, Repr

/-- The outcome of a transaction (44_transaction.md R214). -/
inductive XactOutcome where
  | argError (code : Byte)
  | transportError (e : IoError)
  /-- `collected` is the number of bytes collected by a read. -/
  | timeout (phase : Phase) (collected : Option Nat)
  | protocolError (code : Byte)
  | success (data : List Byte)
  | deviceException (raw : Byte) (member : Byte)
  deriving DecidableEq, Repr

/-- A transaction's answer: the block's state afterwards, and the outcome. -/
abbrev XactResult := Host.Outcome (State × XactOutcome) Fault Refusal

/-- The result data, `RXBUF[DOFF .. DOFF+DLEN)` (10_state.md R35). -/
def resultData (s : State) : List Byte := Memory.readRange s.rxbuf s.doff.toNat s.dlen.toNat

/-- What a transaction returns after CHECK, read from STATUS; the data of a success by RES.DUMP (44_transaction.md
R211, R212). -/
def conclude (s : State) : XactResult :=
  if s.status = stSuccess then andThen (collectOutput (resDump s) s) fun p => .next (p.1, .success p.2)
  else if s.status = stDevExc then .next (s, .deviceException s.exc s.excm)
  else .next (s, .protocolError s.status)

/-- T5 and T6: load the response and check it under a minimum length of a write response (44_transaction.md R211). -/
def loadAndCheck (minLength : Nat) (bs : List Byte) (s : State) : XactResult :=
  andThen (runOps (rxLoad bs) s) fun t => andThen (checkWith minLength t) conclude

/-- T4's answers (44_transaction.md R211, R213). -/
def afterRead (answer : ReadAnswer) (s : State) : XactResult :=
  match answer with
  | .bytes bs => loadAndCheck (minWriteLength s.cfg.writeMinLen) bs s
  | .failure e => .next (s, .transportError e)
  | .timeout collected =>
    match s.cfg.shortResponse with
    | .timeout => .next (s, .timeout .read (some collected.length))
    | .validatePartial =>
      if 5 ≤ collected.length then loadAndCheck 5 collected s
      else .next (s, .timeout .read (some collected.length))

/-- T2 to T4: take the frame off the block by TX.DUMP, then, in one critical section of the transport
(44_transaction.md R208), write it and read `n` bytes. -/
def transact (o : Oracle) (n : Nat) (s : State) : XactResult :=
  andThen (collectOutput (txDump s) s) fun p =>
    match o.write p.2 with
    | .failure e => .next (p.1, .transportError e)
    | .timeout => .next (p.1, .timeout .write none)
    | .written _ => afterRead (o.readExact n) p.1

/-- The codes of the argument errors, 0x10..0x13 (44_transaction.md R211). -/
def isArgError (status : Byte) : Bool := 0x10 ≤ status.toNat && status.toNat ≤ 0x13

/-- XACT.WR addr, start, [data] (44_transaction.md R211). -/
def xactWrite (o : Oracle) (addr : Byte) (start : Word) (data : List Byte) (s : State) : XactResult :=
  andThen (exec (.buildWr addr start data) s) fun t =>
    if isArgError t.status then .next (t, .argError t.status) else transact o 8 t

/-- XACT.RD addr, start, bc (44_transaction.md R212). -/
def xactRead (o : Oracle) (addr : Byte) (start : Word) (bc : Byte) (s : State) : XactResult :=
  andThen (exec (.buildRd addr start bc) s) fun t =>
    if isArgError t.status then .next (t, .argError t.status) else transact o t.explen.toNat t

/-- The oracle that a handle makes, for given answers of the line (44_transaction.md R209: "any concrete
transport"). DESIGN CHOICE (log 18): with a read-timeout of 0, which 93_implementation_defined.md U18 assumes away and no
call is named to reject, this oracle runs the body of `ReadExact` with a deadline of 0 and does not report a bad
argument, which R214 has no outcome for. -/
def handleOracle (line : LineWrite) (reads : List LineRead) (h : Handle) : Oracle where
  write := fun f => (writeHandle line f h).1
  readExact := fun n => (readLoop n reads h).1
  write_fits := fun f => fits_writeHandle line f h
  readExact_fits := fun n => fits_readLoop n reads h

end Sys2Proof.Machine
end

