-- ==== Sys2Proof/Safety.lean ====
section
/-! DEFINITION. What statements speak of: the invariant of 10_state.md R44, the result value of R43, what counts as a
run in which no operation raised (60_exceptions.md R235), and agreement on specified state (10_state.md R42). -/

namespace Sys2Proof.Machine

/-- The result value, "exactly one case holds" (10_state.md R43). -/
inductive ResultValue where
  | success (data : List Byte)
  | deviceException (raw : Byte) (member : Byte)
  deriving DecidableEq, Repr

/-- The result value the registers hold, if any (10_state.md R43). -/
def resultValue (s : State) : Option ResultValue :=
  if s.status = stSuccess then some (.success (resultData s))
  else if s.status = stDevExc then some (.deviceException s.exc s.excm)
  else none

/-- STATUS holds a condition's code. A device exception is no condition (60_exceptions.md R235). -/
def holdsCondition (s : State) : Bool := 0x10 ≤ s.status.toNat

/-- The codes that are ever written to STATUS (60_exceptions.md R232). -/
def statusCodes : List Byte :=
  [0x00, 0x01, 0x02, 0x03, 0x10, 0x11, 0x12, 0x13, 0x20, 0x21, 0x22, 0x23, 0x24, 0x25, 0x26, 0x30, 0x31, 0x32]

/-- The lengths TXLEN can have (10_state.md R44). -/
abbrev TxLengthOk (s : State) : Prop :=
  s.txlen.toNat = 0 ∨ s.txlen.toNat = 8 ∨ (s.txlen.toNat % 2 = 1 ∧ 11 ≤ s.txlen.toNat)

/-- A read request's context and frame (10_state.md R44). -/
abbrev ReadContextOk (s : State) : Prop :=
  s.reqFunc = 0x04 ∧ s.reqBc.toNat % 2 = 0 ∧ 2 ≤ s.reqBc.toNat ∧ s.reqBc.toNat ≤ 250 ∧
    s.explen.toNat = 5 + s.reqBc.toNat ∧ txFrame s = readRequest s.reqAddr s.reqStart s.reqBc

/-- A write request's context and frame (10_state.md R44): the payload is bytes 7 to 6 + REQ_BC of the frame. -/
abbrev WriteContextOk (s : State) : Prop :=
  s.reqFunc = 0x10 ∧ s.reqBc.toNat % 2 = 0 ∧ 2 ≤ s.reqBc.toNat ∧ s.reqBc.toNat ≤ 246 ∧ s.explen = 8 ∧
    s.txlen.toNat = 9 + s.reqBc.toNat ∧
    txFrame s = writeRequest s.reqAddr s.reqStart (((txFrame s).drop 7).take s.reqBc.toNat)

/-- The request context while CTXV = 1 (10_state.md R44). -/
abbrev ContextOk (s : State) : Prop :=
  8 ≤ s.txlen.toNat ∧ 1 ≤ s.reqAddr.toNat ∧ s.reqAddr.toNat ≤ 247 ∧ (ReadContextOk s ∨ WriteContextOk s)

/-- The result view (10_state.md R44, R35): inside the valid response, and either withdrawn or that of a success. -/
abbrev ViewOk (s : State) : Prop :=
  s.doff.toNat + s.dlen.toNat ≤ s.rxlen.toNat ∧
    ((s.doff = 0 ∧ s.dlen = 0) ∨
      (s.ctxv = true ∧ ((s.doff = 2 ∧ s.dlen = 4) ∨ (s.doff = 3 ∧ s.dlen = s.reqBc))))

/-- The invariant (10_state.md R44), with the canonical form of the buffers, the codes of STATUS (60_exceptions.md
R232), the member ids (30_encoding.md R102) and the constraints on EXC_MAP (R101). -/
structure State.Inv (s : State) : Prop where
  txbuf_wf : Memory.wf s.txbuf
  rxbuf_wf : Memory.wf s.rxbuf
  txlen_ok : TxLengthOk s
  context_ok : s.ctxv = true → ContextOk s
  view_ok : ViewOk s
  success_view : s.status = stSuccess → s.ctxv = true
  status_ok : s.status ∈ statusCodes
  excm_ok : s.excm.toNat ≤ 11
  excMap_wf : ExcMap.wf s.cfg.excMap

/-- The two states agree on everything the spec specifies: all but the buffer bytes at and above the lengths, and,
while CTXV = 0, the context registers (10_state.md R42). -/
structure State.SameSpecified (s t : State) : Prop where
  acc : s.acc = t.acc
  txlen : s.txlen = t.txlen
  txFrame : txFrame s = txFrame t
  rxlen : s.rxlen = t.rxlen
  rxFrame : rxFrame s = rxFrame t
  status : s.status = t.status
  ctxv : s.ctxv = t.ctxv
  crcok : s.crcok = t.crcok
  context : s.ctxv = true → s.reqAddr = t.reqAddr ∧ s.reqFunc = t.reqFunc ∧ s.reqStart = t.reqStart ∧
    s.reqBc = t.reqBc ∧ s.explen = t.explen
  exc : s.exc = t.exc
  excm : s.excm = t.excm
  doff : s.doff = t.doff
  dlen : s.dlen = t.dlen
  cmdIn : s.cmdIn = t.cmdIn
  result : s.result = t.result
  cfg : s.cfg = t.cfg
  draws : s.draws = t.draws

/-- Two outcomes agree: next states that agree on everything specified, or the same stop. -/
def SameOutcome : Result → Result → Prop
  | .next s, .next t => s.SameSpecified t
  | .fault r, .fault q => r = q
  | .refused r, .refused q => r = q
  | _, _ => False

end Sys2Proof.Machine
end

