-- ==== Sys2Proof/Certificates/Slice0/Obligations.lean ====
section
/-! DEFINITION. The statements for the provers, from the numbered rules of spec/. Every one of them that names a next
state names every field of it: what it does not set is unchanged. -/

open Sys2Proof Sys2Proof.Machine

/-! ### Vocabulary of the statements -/

/-- The bytes that are no opcode, as 30_encoding.md R96 lists them. -/
abbrev Sys2Proof.IllegalOpcode (op : Byte) : Prop :=
  op.toNat = 0x00 ∨ (0x06 ≤ op.toNat ∧ op.toNat ≤ 0x0F) ∨ (0x11 ≤ op.toNat ∧ op.toNat ≤ 0x1F) ∨
    (0x24 ≤ op.toNat ∧ op.toNat ≤ 0x2F) ∨ (0x32 ≤ op.toNat ∧ op.toNat ≤ 0x3E) ∨ 0x40 ≤ op.toNat

/-- The device addresses a request can carry (41_build.md R141). -/
abbrev Sys2Proof.AddressOk (addr : Byte) : Prop := 1 ≤ addr.toNat ∧ addr.toNat ≤ 247

/-- The byte counts a request can carry, up to a bound (41_build.md R141). -/
abbrev Sys2Proof.CountOk (bound bytes : Nat) : Prop := bytes ≠ 0 ∧ bytes % 2 = 0 ∧ bytes ≤ bound

/-- The first argument check that does not hold, for arguments of which one does not (41_build.md R141). -/
abbrev Sys2Proof.argumentCode (addr : Byte) (bytes : Nat) : Byte :=
  if ¬ AddressOk addr then 0x10 else if bytes = 0 then 0x11 else if bytes % 2 = 1 then 0x12 else 0x13

/-- The effect of an argument error with a given code (41_build.md R151). The five context registers, which 10_state.md
R33 leaves unspecified after it, are kept: the model's choice (log 5). -/
abbrev Sys2Proof.rejected (code : Byte) (s : State) : State :=
  { s with doff := 0, dlen := 0, exc := 0, excm := 0, txlen := 0, ctxv := false, status := code }

/-- The result registers cleared and STATUS set: a CHECK that ends before its CRC stage (43_check.md R171). -/
abbrev Sys2Proof.ended (code : Byte) (s : State) : State :=
  { s with doff := 0, dlen := 0, exc := 0, excm := 0, status := code }

/-- A CHECK that reached its CRC stage over the frame `r` (43_check.md R171, R182). -/
abbrev Sys2Proof.compared (r : List Byte) (ok : Bool) (code : Byte) (s : State) : State :=
  { ended code s with acc := crc16 (r.take (r.length - 2)), crcok := ok }

/-- The trailing two bytes of a frame are its CRC, low byte first (30_encoding.md R92). -/
abbrev Sys2Proof.TrailerOk (r : List Byte) : Prop :=
  crcLo (crc16 (r.take (r.length - 2))) = byteAt r (r.length - 2) ∧
    crcHi (crc16 (r.take (r.length - 2))) = byteAt r (r.length - 1)

/-! ### Encoding -/

/-- 30_encoding.md R93 to R97: decoding an encoded operation gives it back, with every operand at every value, and
leaves the bytes after it. -/
def Obligations.EncodedCommandDecodesToItself : Prop :=
  ∀ (i : Instr) (rest : List Byte), i.wf = true → decode (encode i ++ rest) = .command i rest

/-- 30_encoding.md R93 to R97: a decoded operation is exactly the bytes consumed, and it is well-formed. -/
def Obligations.DecodedCommandIsTheBytesConsumed : Prop :=
  ∀ (bs : List Byte) (i : Instr) (rest : List Byte),
    decode bs = .command i rest → i.wf = true ∧ encode i ++ rest = bs

/-- 30_encoding.md R95: the length of a command follows from its opcode, and for format W from the byte at offset 4,
whatever that byte is. -/
def Obligations.CommandLengthFollowsFormat : Prop :=
  (∀ (op : Byte) (bs : List Byte), op ∈ [0x01, 0x03, 0x05, 0x20, 0x30] → ∃ i, decode (op :: bs) = .command i bs) ∧
  (∀ (op b : Byte) (bs : List Byte), op ∈ [0x02, 0x21, 0x22, 0x23, 0x31, 0x3F] →
    ∃ i, decode (op :: b :: bs) = .command i bs) ∧
  (∀ (addr hi lo bc : Byte) (bs : List Byte),
    ∃ i, decode (0x04 :: addr :: hi :: lo :: bc :: bs) = .command i bs) ∧
  (∀ (addr hi lo n : Byte) (data bs : List Byte), data.length = n.toNat →
    ∃ i, decode (0x10 :: addr :: hi :: lo :: n :: (data ++ bs)) = .command i bs)

/-- 30_encoding.md R96: an illegal opcode is one byte, writes STATUS 0x31 and changes nothing else; a command cut
short is not executed and has no effect. That the step of the waiting block answers the same state is the model's
reading (log 9). -/
def Obligations.IllegalAndCutShortCommands : Prop :=
  (∀ (s : State) (op : Byte) (rest : List Byte), IllegalOpcode op → s.cmdIn = op :: rest →
    step s = .next { s with cmdIn := rest, status := 0x31 }) ∧
  (∀ (s : State) (i : Instr) (k : Nat), i.wf = true → k < (encode i).length → s.cmdIn = (encode i).take k →
    step s = .next s)

/-- Words written out from 30_encoding.md R93, R94, R103 and 95_test_vectors.md decode to what they stand for. -/
def Obligations.SpecWordsDecode : Prop :=
  decode [0x02, 0x01, 0x03] = .command (.crcByte 0x01) [0x03] ∧
  decode [0x04, 0x01, 0x12, 0x34, 0x02] = .command (.buildRd 0x01 0x1234 0x02) [] ∧
  decode [0x10, 0x01, 0x00, 0x10, 0x04, 0x00, 0x0A, 0x01, 0x02] =
    .command (.buildWr 0x01 0x0010 [0x00, 0x0A, 0x01, 0x02]) [] ∧
  decode [0x22, 0x0B] = .command (.txRd 0x0B) [] ∧
  decode [0x30, 0x3F, 0x00] = .command .check [0x3F, 0x00] ∧
  decode [0x31, 0x02] = .command (.excDec 0x02) []

/-- 10_state.md R38, 30_encoding.md R95: a step consumes the command at the head of the command stream and runs that
operation, which is well-formed; nothing else surrounds it. That State holds the command stream is the model's choice
(log 1). -/
def Obligations.StepRunsTheDecodedCommand : Prop :=
  ∀ (s : State) (i : Instr) (rest : List Byte), decode s.cmdIn = .command i rest →
    i.wf = true ∧ step s = exec i { s with cmdIn := rest }

/-! ### The CRC family -/

/-- 40_crc.md R126: CRC.INIT. -/
def Obligations.CrcInitSetsAccumulator : Prop :=
  ∀ s : State, exec .crcInit s = .next { s with acc := 0xFFFF }

/-- 40_crc.md R122, R123, R127: CRC.BYTE puts crc_byte of ACC and the byte into ACC; crc_byte XORs the byte into the low
byte and makes eight iterations; after one iteration bit 15 is the tested bit. -/
def Obligations.CrcByteMakesEightIterations : Prop :=
  (∀ (s : State) (b : Byte), exec (.crcByte b) s = .next { s with acc := crcByte s.acc b }) ∧
  (∀ (a : Word) (b : Byte), crcByte a b =
    (fun x : Word => if x &&& 1 = 1 then (x >>> 1) ^^^ 0xA001 else x >>> 1)^[8] (a ^^^ b.zeroExtend 16)) ∧
  (∀ a : Word, crcShift a = if a &&& 1 = 1 then (a >>> 1) ^^^ 0xA001 else a >>> 1) ∧
  (∀ a : Word, (crcShift a).getLsbD 15 = a.getLsbD 0)

/-- 40_crc.md R124: the CRC of a sequence starts from 0xFFFF and takes its bytes in order. -/
def Obligations.CrcOfSequenceFoldsItsBytes : Prop :=
  crc16 [] = 0xFFFF ∧ ∀ (bs : List Byte) (b : Byte), crc16 (bs ++ [b]) = crcByte (crc16 bs) b

/-- 40_crc.md R133: the corrected canonical vector, byte by byte and on the wire, and the sequence the document's
literal belongs to. -/
def Obligations.CanonicalVectorIsCB71 : Prop :=
  crc16 [0x01] = 0x807E ∧ crc16 [0x01, 0x04] = 0xE301 ∧ crc16 [0x01, 0x04, 0x00] = 0xC022 ∧
  crc16 [0x01, 0x04, 0x00, 0x00] = 0x1940 ∧ crc16 [0x01, 0x04, 0x00, 0x00, 0x00] = 0xF018 ∧
  crc16 [0x01, 0x04, 0x00, 0x00, 0x00, 0x02] = 0xCB71 ∧
  withCrc [0x01, 0x04, 0x00, 0x00, 0x00, 0x02] = [0x01, 0x04, 0x00, 0x00, 0x00, 0x02, 0x71, 0xCB] ∧
  crc16 [0x01, 0x03, 0x00, 0x00, 0x00, 0x0A] = 0xCDC5

/-- 40_crc.md R131 (a) to (d). -/
def Obligations.CrcArithmeticLaws : Prop :=
  (∀ (a : Word) (b : Byte), crcByte a b = crcByte (a ^^^ b.setWidth 16) 0x00) ∧
  Function.Bijective crcShift ∧ (∀ b : Byte, Function.Bijective (fun a => crcByte a b)) ∧
  (∀ (a a' : Word) (b b' : Byte), crcByte (a ^^^ a') (b ^^^ b') = crcByte a b ^^^ crcByte a' b') ∧
  crcByte 0x0000 0x00 = 0x0000 ∧
  (∀ bs cs : List Byte, crc16 (bs ++ cs) = cs.foldl crcByte (crc16 bs))

/-- 40_crc.md R132: a message with its CRC appended, low byte first, verifies, and its own CRC is 0. -/
def Obligations.AppendedCrcVerifiesWithZeroResidue : Prop :=
  ∀ m : List Byte, TrailerOk (m ++ [crcLo (crc16 m), crcHi (crc16 m)]) ∧
    crcOk (m ++ [crcLo (crc16 m), crcHi (crc16 m)]) = true ∧
    crc16 (m ++ [crcLo (crc16 m), crcHi (crc16 m)]) = 0x0000

/-- 40_crc.md R128: CRC.RD puts out ACC[7:0], then ACC[15:8]. -/
def Obligations.CrcReadPutsOutLowByteFirst : Prop :=
  ∀ s : State, exec .crcRd s =
    .next { s with result := s.result ++ [s.acc.extractLsb' 0 8, s.acc.extractLsb' 8 8] }

/-- 40_crc.md R129: CRC.VERIFY on fewer than two bytes raises 0x20 with CRCOK 0; otherwise ACC gets the recomputed
CRC, CRCOK the comparison, and STATUS is unchanged. -/
def Obligations.CrcVerifyComparesTheTrailer : Prop :=
  ∀ s : State,
    (s.rxlen.toNat < 2 → exec .crcVerify s = .next { s with crcok := false, status := 0x20 }) ∧
    (2 ≤ s.rxlen.toNat → exec .crcVerify s = .next { s with
      acc := crc16 ((rxFrame s).take (s.rxlen.toNat - 2)), crcok := decide (TrailerOk (rxFrame s)) })

/-- 40_crc.md R130: after CRC.CALC, ACC is the CRC of the bytes and nothing else has changed. -/
def Obligations.CrcCalcLeavesTheCrc : Prop :=
  ∀ (bs : List Byte) (s : State), runOps (crcCalc bs) s = .next { s with acc := crc16 bs }

/-! ### The request framer -/

/-- 41_build.md R141, R151: the argument checks in their order, each with its code, and the whole effect of an
argument error; arguments that pass every check are accepted. That an argument error keeps the five context registers
(log 5) and the bytes of TXBUF (log 22) is the model's choice. -/
def Obligations.BuildChecksArgumentsInOrder : Prop :=
  ∀ (s : State) (addr : Byte) (start : Word),
    (∀ bc : Byte,
      (¬ AddressOk addr → exec (.buildRd addr start bc) s = .next (rejected 0x10 s)) ∧
      (AddressOk addr → bc.toNat = 0 → exec (.buildRd addr start bc) s = .next (rejected 0x11 s)) ∧
      (AddressOk addr → bc.toNat % 2 = 1 → exec (.buildRd addr start bc) s = .next (rejected 0x12 s)) ∧
      (AddressOk addr → bc.toNat % 2 = 0 → 250 < bc.toNat →
        exec (.buildRd addr start bc) s = .next (rejected 0x13 s)) ∧
      (AddressOk addr → CountOk 250 bc.toNat → ∃ t, exec (.buildRd addr start bc) s = .next t ∧ t.status = 0x01)) ∧
    (∀ data : List Byte, data.length ≤ 255 →
      (¬ AddressOk addr → exec (.buildWr addr start data) s = .next (rejected 0x10 s)) ∧
      (AddressOk addr → data.length = 0 → exec (.buildWr addr start data) s = .next (rejected 0x11 s)) ∧
      (AddressOk addr → data.length % 2 = 1 → exec (.buildWr addr start data) s = .next (rejected 0x12 s)) ∧
      (AddressOk addr → data.length % 2 = 0 → 246 < data.length →
        exec (.buildWr addr start data) s = .next (rejected 0x13 s)) ∧
      (AddressOk addr → CountOk 246 data.length →
        ∃ t, exec (.buildWr addr start data) s = .next t ∧ t.status = 0x01))

/-- 41_build.md R143, R144, R145: an accepted BUILD.RD puts the eight-byte frame into TXBUF, latches the context and
changes nothing else, in registers or in buffers; a rejected one has the effect of an argument error. The model's
choices: the bytes of TXBUF past the frame stay (log 22), and an argument error keeps the context registers (log 5)
and TXBUF (log 22). -/
def Obligations.BuildReadAssemblesAndLatches : Prop :=
  ∀ (s : State) (addr : Byte) (start : Word) (bc : Byte), Memory.wf s.txbuf →
    (AddressOk addr ∧ CountOk 250 bc.toNat →
      ∃ t, exec (.buildRd addr start bc) s = .next t ∧
        (let m := [addr, 0x04, start.extractLsb' 8 8, start.extractLsb' 0 8, 0x00, BitVec.ofNat 8 (bc.toNat / 2)]
         txFrame t = m ++ [crcLo (crc16 m), crcHi (crc16 m)] ∧
         t = { s with
           txbuf := t.txbuf, txlen := 8, acc := crc16 m, reqAddr := addr, reqFunc := 0x04, reqStart := start,
           reqBc := bc, explen := BitVec.ofNat 8 (5 + bc.toNat), ctxv := true, status := 0x01,
           doff := 0, dlen := 0, exc := 0, excm := 0 }) ∧
        t.explen.toNat = 3 + bc.toNat + 2 ∧
        ∀ a, 8 ≤ a → Memory.read t.txbuf a = Memory.read s.txbuf a) ∧
    (¬ (AddressOk addr ∧ CountOk 250 bc.toNat) →
      exec (.buildRd addr start bc) s = .next (rejected (argumentCode addr bc.toNat) s))

/-- 41_build.md R146, R149, R150: an accepted BUILD.WR puts the frame of 9 + n bytes into TXBUF, payload unchanged and
in order, latches the context and changes nothing else; a rejected one has the effect of an argument error. The
model's choices: the bytes of TXBUF past the frame stay (log 22), and an argument error keeps the context registers
(log 5) and TXBUF (log 22). -/
def Obligations.BuildWriteAssemblesAndLatches : Prop :=
  ∀ (s : State) (addr : Byte) (start : Word) (data : List Byte), Memory.wf s.txbuf →
    (AddressOk addr ∧ CountOk 246 data.length →
      ∃ t, exec (.buildWr addr start data) s = .next t ∧
        (let m := [addr, 0x10, start.extractLsb' 8 8, start.extractLsb' 0 8, 0x00,
          BitVec.ofNat 8 (data.length / 2), BitVec.ofNat 8 data.length] ++ data
         txFrame t = m ++ [crcLo (crc16 m), crcHi (crc16 m)] ∧
         t = { s with
           txbuf := t.txbuf, txlen := BitVec.ofNat 8 (9 + data.length), acc := crc16 m, reqAddr := addr,
           reqFunc := 0x10, reqStart := start, reqBc := BitVec.ofNat 8 data.length, explen := 8, ctxv := true,
           status := 0x01, doff := 0, dlen := 0, exc := 0, excm := 0 }) ∧
        t.txlen.toNat = 9 + data.length ∧
        ∀ a, 9 + data.length ≤ a → Memory.read t.txbuf a = Memory.read s.txbuf a) ∧
    (data.length ≤ 255 → ¬ (AddressOk addr ∧ CountOk 246 data.length) →
      exec (.buildWr addr start data) s = .next (rejected (argumentCode addr data.length) s))

/-- 41_build.md R152: the frame in TXBUF after an accepted BUILD verifies, low byte first. -/
def Obligations.BuiltFrameVerifies : Prop :=
  ∀ (s : State) (addr : Byte) (start : Word), Memory.wf s.txbuf → AddressOk addr →
    (∀ bc : Byte, CountOk 250 bc.toNat →
      ∃ t, exec (.buildRd addr start bc) s = .next t ∧ TrailerOk (txFrame t)) ∧
    (∀ data : List Byte, CountOk 246 data.length →
      ∃ t, exec (.buildWr addr start data) s = .next t ∧ TrailerOk (txFrame t))

/-- 41_build.md R151, 43_check.md R171, 42_buffers.md R163: after a rejected BUILD no frame can be read out and no
response validated: TX.RD raises 0x32 at every index, CHECK raises 0x30. What else that state holds is the model's
choice (log 5, log 22). -/
def Obligations.RejectedBuildLeavesNothingToUse : Prop :=
  ∀ (s : State) (code : Byte),
    (∀ i : Byte, exec (.txRd i) (rejected code s) = .next (rejected 0x32 s)) ∧
    exec .check (rejected code s) = .next (rejected 0x30 s)

/-! ### Buffer and status access -/

/-- 42_buffers.md R161: RX.CLR. That the bytes of RXBUF, unspecified from there on, stay as they were is the model's
choice (log 22). -/
def Obligations.RxClrEmptiesTheBuffer : Prop :=
  ∀ s : State, exec .rxClr s = .next { s with rxlen := 0, doff := 0, dlen := 0 } ∧
    rxFrame { s with rxlen := 0, doff := 0, dlen := 0 } = []

/-- 42_buffers.md R162: RX.PUSH stores the byte at RXLEN and adds one to RXLEN, withdraws the view and changes nothing
else; on a full buffer it is refused. -/
def Obligations.RxPushAppendsOrIsRefused : Prop :=
  ∀ (s : State) (b : Byte), Memory.wf s.rxbuf →
    (s.rxlen.toNat = 255 → exec (.rxPush b) s = .refused .rxBufferFull) ∧
    (s.rxlen.toNat ≠ 255 → ∃ t, exec (.rxPush b) s = .next t ∧
      t = { s with rxbuf := t.rxbuf, rxlen := BitVec.ofNat 8 (s.rxlen.toNat + 1), doff := 0, dlen := 0 } ∧
      t.rxlen.toNat = s.rxlen.toNat + 1 ∧ rxFrame t = rxFrame s ++ [b] ∧
      Memory.read t.rxbuf (pushAddress s) = b ∧
      ∀ a, a ≠ pushAddress s → Memory.read t.rxbuf a = Memory.read s.rxbuf a)

/-- 42_buffers.md R163: TX.RD puts out the frame's byte at an index below TXLEN, and raises 0x32 otherwise. -/
def Obligations.TxRdReadsTheFrame : Prop :=
  ∀ (s : State) (i : Byte),
    (i.toNat < s.txlen.toNat → exec (.txRd i) s = .next { s with result := s.result ++ [byteAt (txFrame s) i.toNat] }) ∧
    (s.txlen.toNat ≤ i.toNat → exec (.txRd i) s = .next { s with status := 0x32 })

/-- 42_buffers.md R164: RES.RD puts out the byte of RXBUF at DOFF + i for an index below DLEN, which lies inside the
valid response, and raises 0x32 otherwise. -/
def Obligations.ResRdReadsTheResult : Prop :=
  ∀ (s : State) (i : Byte), s.Inv →
    (i.toNat < s.dlen.toNat → s.doff.toNat + i.toNat < s.rxlen.toNat ∧
      exec (.resRd i) s =
        .next { s with result := s.result ++ [byteAt (rxFrame s) (s.doff.toNat + i.toNat)] }) ∧
    (s.dlen.toNat ≤ i.toNat → exec (.resRd i) s = .next { s with status := 0x32 })

/-- 10_state.md R36, 42_buffers.md R165: STAT.RD puts out the register of the number, changes nothing else, and raises
0x32 above 0x0F; a context register while CTXV = 0 gives some byte, and the model counts a draw: the model's choice
(log 6). -/
def Obligations.StatRdReadsTheNumberedRegister : Prop :=
  ∀ s : State,
    (∀ p ∈ [((0x00 : Byte), s.status),
        (0x01, (if s.ctxv then 0x01 else 0x00) + (if s.crcok then 0x02 else 0x00)), (0x02, s.exc), (0x03, s.excm),
        (0x04, s.txlen), (0x05, s.rxlen), (0x06, s.doff), (0x07, s.dlen), (0x0E, s.acc.extractLsb' 0 8),
        (0x0F, s.acc.extractLsb' 8 8)],
      exec (.statRd p.1) s = .next { s with result := s.result ++ [p.2] }) ∧
    (∀ p ∈ [((0x08 : Byte), s.reqAddr), (0x09, s.reqFunc), (0x0A, s.reqStart.extractLsb' 8 8),
        (0x0B, s.reqStart.extractLsb' 0 8), (0x0C, s.reqBc), (0x0D, s.explen)],
      (s.ctxv = true → exec (.statRd p.1) s = .next { s with result := s.result ++ [p.2] }) ∧
      (s.ctxv = false → ∃ v : Byte,
        exec (.statRd p.1) s = .next { s with result := s.result ++ [v], draws := s.draws + 1 })) ∧
    (∀ n : Byte, 0x0F < n.toNat → exec (.statRd n) s = .next { s with status := 0x32 })

/-- 30_encoding.md R104: after RX.LOAD the valid response is the bytes loaded; nothing else but the view has
changed. -/
def Obligations.RxLoadFillsTheBuffer : Prop :=
  ∀ (s : State) (bs : List Byte), Memory.wf s.rxbuf → bs.length ≤ 255 →
    ∃ t, runOps (rxLoad bs) s = .next t ∧ rxFrame t = bs ∧
      t = { s with rxbuf := t.rxbuf, rxlen := BitVec.ofNat 8 bs.length, doff := 0, dlen := 0 }

/-- 30_encoding.md R104: TX.DUMP puts the request frame on the result stream; RES.DUMP the result data. -/
def Obligations.DumpsPutOutFrameAndData : Prop :=
  (∀ s : State, runOps (txDump s) s = .next { s with result := s.result ++ txFrame s }) ∧
  (∀ s : State, s.Inv → runOps (resDump s) s = .next { s with
    result := s.result ++ ((rxFrame s).drop s.doff.toNat).take s.dlen.toNat })

/-- 20_memory.md R58: TX.RD, RES.RD and STAT.RD change no state but the result stream and, when they raise, STATUS
(and the model's count of draws); reading a byte again gives the same byte, unless CTXV = 0, where the byte is the
model's free value (log 6). -/
def Obligations.ReadsHaveNoSideEffects : Prop :=
  ∀ (s t : State) (i : Instr) (k : Byte), i ∈ [.txRd k, .resRd k, .statRd k] → exec i s = .next t →
    t = { s with result := t.result, status := t.status, draws := t.draws } ∧
    (t.status ≠ s.status → t.status = 0x32 ∧ t.result = s.result) ∧
    (s.ctxv = true → t.draws = s.draws ∧ ∀ b, t.result = s.result ++ [b] →
      ∃ u, exec i t = .next u ∧ u.result = t.result ++ [b])

/-! ### CHECK and EXC.DEC -/

/-- 43_check.md R171, 92_eei_decisions.md D14: CHECK with no request raises 0x30 and reads neither context nor
response. -/
def Obligations.CheckWithoutRequestRaises : Prop :=
  ∀ s : State, s.ctxv = false → exec .check s = .next (ended 0x30 s)

/-- 43_check.md R176, R182: the read validator's stages in their order, with everything each outcome writes. -/
def Obligations.CheckReadRunsItsStages : Prop :=
  ∀ s : State, s.ctxv = true → s.reqFunc = 0x04 →
    (let r := rxFrame s
     exec .check s = .next (
      if s.rxlen.toNat < 5 then ended 0x20 s
      else if byteAt r 0 ≠ s.reqAddr then ended 0x21 s
      else if 0x80 ≤ (byteAt r 1).toNat then
        { ended 0x03 s with exc := byteAt r 2, excm := memberId (excMember s.cfg.excMap (byteAt r 2)) }
      else if byteAt r 1 ≠ 0x04 then ended 0x22 s
      else if byteAt r 2 ≠ s.reqBc then ended 0x23 s
      else if s.rxlen.toNat ≠ 5 + s.reqBc.toNat then ended 0x24 s
      else if ¬ TrailerOk r then compared r false 0x25 s
      else { compared r true 0x02 s with doff := 3, dlen := s.reqBc }))

/-- 43_check.md R180, R182: the write validator's stages in their order, for both values of write_min_len, with
everything each outcome writes. -/
def Obligations.CheckWriteRunsItsStages : Prop :=
  ∀ s : State, s.ctxv = true → s.reqFunc = 0x10 →
    (let r := rxFrame s
     exec .check s = .next (
      if s.rxlen.toNat < (if s.cfg.writeMinLen = .eight then 8 else 5) then ended 0x20 s
      else if byteAt r 0 ≠ s.reqAddr then ended 0x21 s
      else if 0x80 ≤ (byteAt r 1).toNat then
        { ended 0x03 s with exc := byteAt r 2, excm := memberId (excMember s.cfg.excMap (byteAt r 2)) }
      else if byteAt r 1 ≠ 0x10 then ended 0x22 s
      else if s.rxlen.toNat < 8 then ended 0x24 s
      else if ¬ TrailerOk r then compared r false 0x25 s
      else if byteAt r 2 ++ byteAt r 3 ≠ s.reqStart then compared r true 0x26 s
      else { compared r true 0x02 s with doff := 2, dlen := 4 }))

/-- 43_check.md R186: CHECK writes only STATUS, EXC, EXCM, DOFF, DLEN and, from S6 on, ACC and CRCOK; a second CHECK
gives the same outcome; what it reports is a function of the context and the valid response. -/
def Obligations.CheckIsRepeatable : Prop :=
  (∀ s t : State, exec .check s = .next t →
    t = { s with status := t.status, exc := t.exc, excm := t.excm, doff := t.doff, dlen := t.dlen,
                 acc := t.acc, crcok := t.crcok } ∧
    (t.status ∉ [0x02, 0x25, 0x26] → t.acc = s.acc ∧ t.crcok = s.crcok) ∧
    exec .check t = .next t) ∧
  (∀ s s' t t' : State, exec .check s = .next t → exec .check s' = .next t' → s.cfg = s'.cfg → s.ctxv = s'.ctxv →
    s.reqAddr = s'.reqAddr → s.reqFunc = s'.reqFunc → s.reqStart = s'.reqStart → s.reqBc = s'.reqBc →
    rxFrame s = rxFrame s' →
    t.status = t'.status ∧ t.exc = t'.exc ∧ t.excm = t'.excm ∧ t.doff = t'.doff ∧ t.dlen = t'.dlen ∧
      (t.status ∈ [0x02, 0x25, 0x26] → t.acc = t'.acc ∧ t.crcok = t'.crcok))

/-- 43_check.md R182: ACC gets the recomputed CRC and CRCOK the comparison exactly when a CHECK reaches S6, which the
outcomes Success, ERR_CRC and ERR_ECHO tell; ERR_CRC is the comparison that fails; a CHECK that ends before S6 leaves
both as they were. -/
def Obligations.CrcStageWritesAccAndCrcok : Prop :=
  ∀ s : State, ∃ t, exec .check s = .next t ∧
    (t.status ∈ [0x02, 0x25, 0x26] →
      t.acc = crc16 ((rxFrame s).take (s.rxlen.toNat - 2)) ∧ t.crcok = decide (TrailerOk (rxFrame s)) ∧
      (t.status = 0x25 ↔ t.crcok = false)) ∧
    (t.status ∉ [0x02, 0x25, 0x26] → t.acc = s.acc ∧ t.crcok = s.crcok)

/-- 43_check.md R175, R190: a response from the addressed device with bit 7 of its function byte set is a device
exception whatever else it holds: no CRC is computed and nothing but STATUS, EXC, EXCM and the view is written. Under
every EXC_MAP the code 0x02 is IllegalDataAddress. -/
def Obligations.ExceptionBitEndsValidation : Prop :=
  ∀ s : State, s.ctxv = true →
    (s.reqFunc = 0x04 ∧ 5 ≤ s.rxlen.toNat ∨
      s.reqFunc = 0x10 ∧ (if s.cfg.writeMinLen = .eight then 8 else 5) ≤ s.rxlen.toNat) →
    byteAt (rxFrame s) 0 = s.reqAddr → (byteAt (rxFrame s) 1).getLsbD 7 = true →
    exec .check s = .next { s with
      doff := 0, dlen := 0, exc := byteAt (rxFrame s) 2,
      excm := memberId (excMember s.cfg.excMap (byteAt (rxFrame s) 2)), status := 0x03 } ∧
    (byteAt (rxFrame s) 2 = 0x02 → ExcMap.wf s.cfg.excMap →
      memberId (excMember s.cfg.excMap (byteAt (rxFrame s) 2)) = 2)

/-- 43_check.md R183, R185, R189: a write acknowledgment with the right address, function, start register and CRC is
accepted whatever count it echoes and whatever bytes lie between the count and the CRC. -/
def Obligations.EchoedCountIsNotChecked : Prop :=
  ∀ (s : State) (c d : Byte) (extra : List Byte), s.ctxv = true → s.reqFunc = 0x10 →
    (let m := [s.reqAddr, 0x10, s.reqStart.extractLsb' 8 8, s.reqStart.extractLsb' 0 8, c, d] ++ extra
     rxFrame s = m ++ [crcLo (crc16 m), crcHi (crc16 m)] →
     exec .check s = .next { s with
      doff := 2, dlen := 4, exc := 0, excm := 0, acc := crc16 m, crcok := true, status := 0x02 })

/-- 43_check.md R187: EXC.DEC leaves the byte in EXC, its member id in EXCM, and puts the id out; STATUS is
unchanged. -/
def Obligations.ExcDecClassifiesTheByte : Prop :=
  ∀ (s : State) (b : Byte), exec (.excDec b) s = .next { s with
    exc := b, excm := memberId (excMember s.cfg.excMap b),
    result := s.result ++ [memberId (excMember s.cfg.excMap b)] }

/-- 30_encoding.md R100, R101, R102, 43_check.md R188: under every EXC_MAP that meets R101's constraints the
validator is total with twelve members, 0x02 is IllegalDataAddress, each named member comes from at most one byte, and
a byte that is not in the map is Unrecognized. -/
def Obligations.ExceptionEnumerationIsClosed : Prop :=
  ∀ m : ExcMap, ExcMap.wf m →
    excMember m 0x02 = .illegalDataAddress ∧
    (∀ b, (memberId (excMember m b)).toNat ≤ 11) ∧
    (∀ b, b ∉ m.map Prod.fst → excMember m b = .unrecognized) ∧
    (∀ b c, excMember m b = excMember m c → excMember m b ≠ .unrecognized → b = c)

/-- 30_encoding.md R101's default table, as member ids. The spec takes these numbers, but for 0x02, from general
knowledge: PRESUMED, log 3. -/
def Obligations.DefaultExceptionNumbers : Prop :=
  ∀ b : Byte, (memberId (excMember State.reset.cfg.excMap b)).toNat =
    if b.toNat ≤ 8 then b.toNat else if b.toNat = 0x0A then 9 else if b.toNat = 0x0B then 10 else 11

/-! ### The whole machine -/

/-- 10_state.md R44, 60_exceptions.md R232, 30_encoding.md R102: every step keeps the invariant. Its form of a buffer
is the model's (log 4). -/
def Obligations.StepKeepsTheInvariant : Prop :=
  ∀ s t : State, s.Inv → step s = .next t → t.Inv

/-- The invariant holds after reset, and after the reset input in every state whose EXC_MAP meets R101's
constraints. Empty buffers (log 4) and context registers of 0 (log 5) are the model's choice. -/
def Obligations.ResetMeetsTheInvariant : Prop :=
  State.reset.Inv ∧ ∀ s : State, ExcMap.wf s.cfg.excMap → (hostReset s).Inv

/-- 10_state.md R41: the values after reset that the spec gives. -/
def Obligations.ResetValues : Prop :=
  State.reset.acc = 0xFFFF ∧ State.reset.txlen = 0 ∧ State.reset.rxlen = 0 ∧ State.reset.status = 0x00 ∧
  State.reset.ctxv = false ∧ State.reset.crcok = false ∧ State.reset.exc = 0x00 ∧ State.reset.excm = 0x00 ∧
  State.reset.doff = 0 ∧ State.reset.dlen = 0

/-- 70_reset_and_hazards.md R260, R261: the reset input gives every specified register its reset value, and the next
byte is taken as an opcode. The model's choices: it drops every command byte that waits, whole commands too, where R260
speaks of a partly received one (log 11); what it keeps, the bytes already put out, the parameters and the draws (log
11); the values of the five context registers (log 5), and every byte of TXBUF and RXBUF reading 0x00 (log 4), which
R41 and R261 leave unspecified. -/
def Obligations.ResetInputTakesTheResetState : Prop :=
  ∀ s : State, hostReset s = { State.reset with result := s.result, cfg := s.cfg, draws := s.draws } ∧
    (hostReset s).cmdIn = [] ∧
    ∀ (i : Instr), i.wf = true → step (hostSend (encode i) (hostReset s)) = exec i (hostReset s)

/-- 10_state.md R42: unspecified state is never read. Two states that agree on everything specified, whatever their
unreachable buffer bytes and their context registers while CTXV = 0, step to outcomes that agree in the same way.
STAT.RD of a context register gives both one free draw, the model's choice (log 6). -/
def Obligations.UnspecifiedStateIsNeverRead : Prop :=
  ∀ s t : State, Memory.wf s.txbuf → Memory.wf s.rxbuf → Memory.wf t.txbuf → Memory.wf t.rxbuf →
    s.SameSpecified t → SameOutcome (step s) (step t)

/-- 42_buffers.md R162, 60_exceptions.md R241: from every state that meets the invariant a step answers a next state,
but for RX.PUSH on a full buffer, which is refused. That a step with no whole command answers the same state is the
model's reading (log 9). -/
def Obligations.OnlyAFullPushStops : Prop :=
  ∀ s : State, s.Inv →
    (∃ t, step s = .next t) ∨
    (∃ b rest, decode s.cmdIn = .command (.rxPush b) rest ∧ s.rxlen.toNat = 255 ∧
      step s = .refused .rxBufferFull)

/-- 10_state.md R26: which operations write STATUS, and with which codes; CRC.VERIFY, TX.RD, RES.RD and STAT.RD write
it only when they raise (42_buffers.md R163, R164, R165; 40_crc.md R129); an illegal command writes 0x31. -/
def Obligations.OnlyReportingOperationsWriteStatus : Prop :=
  (∀ (s : State) (op : Byte) (rest : List Byte), IllegalOpcode op → s.cmdIn = op :: rest →
    ∃ t, step s = .next t ∧ t.status = 0x31) ∧
  ∀ (i : Instr) (s t : State), i.wf = true → exec i s = .next t →
    match i with
    | .buildRd _ _ _ => t.status ∈ [0x01, 0x10, 0x11, 0x12, 0x13]
    | .buildWr _ _ _ => t.status ∈ [0x01, 0x10, 0x11, 0x12, 0x13]
    | .check => t.status ∈ [0x02, 0x03, 0x20, 0x21, 0x22, 0x23, 0x24, 0x25, 0x26, 0x30]
    | .crcVerify => t.status = if s.rxlen.toNat < 2 then 0x20 else s.status
    | .txRd k => t.status = if k.toNat < s.txlen.toNat then s.status else 0x32
    | .resRd k => t.status = if k.toNat < s.dlen.toNat then s.status else 0x32
    | .statRd n => t.status = if n.toNat ≤ 0x0F then s.status else 0x32
    | .crcInit => t.status = s.status
    | .crcByte _ => t.status = s.status
    | .crcRd => t.status = s.status
    | .rxClr => t.status = s.status
    | .rxPush _ => t.status = s.status
    | .excDec _ => t.status = s.status

/-- 70_reset_and_hazards.md R267, 40_crc.md R134: only CRC.INIT, CRC.BYTE, CRC.VERIFY, BUILD and a CHECK that reaches
S6 change ACC; an accepted BUILD leaves in it the CRC it appended. -/
def Obligations.AccumulatorClobberIsLimited : Prop :=
  ∀ (i : Instr) (s t : State), Memory.wf s.txbuf → exec i s = .next t →
    match i with
    | .crcInit => t.acc = 0xFFFF
    | .crcByte b => t.acc = crcByte s.acc b
    | .crcVerify => t.acc = if s.rxlen.toNat < 2 then s.acc else crc16 (frameBody (rxFrame s))
    | .buildRd _ _ _ => t.acc = if t.status = 0x01 then frameCrc (txFrame t) else s.acc
    | .buildWr _ _ _ => t.acc = if t.status = 0x01 then frameCrc (txFrame t) else s.acc
    | .check => t.acc = if t.status ∈ [0x02, 0x25, 0x26] then crc16 (frameBody (rxFrame s)) else s.acc
    | .crcRd => t.acc = s.acc
    | .rxClr => t.acc = s.acc
    | .rxPush _ => t.acc = s.acc
    | .txRd _ => t.acc = s.acc
    | .resRd _ => t.acc = s.acc
    | .excDec _ => t.acc = s.acc
    | .statRd _ => t.acc = s.acc

/-- 30_encoding.md R94, R98, 10_state.md R40: the result stream only grows, by as many bytes as the opcode map gives
the operation; an operation that raises puts out none. That State holds the result stream is the model's choice
(log 1). -/
def Obligations.ResultStreamGrowsByTheTable : Prop :=
  ∀ (i : Instr) (s t : State), exec i s = .next t →
    ∃ bs : List Byte, t.result = s.result ++ bs ∧
      match i with
      | .crcRd => bs.length = 2
      | .excDec _ => bs.length = 1
      | .txRd _ => bs.length = 1 ∨ (bs = [] ∧ t.status = 0x32)
      | .resRd _ => bs.length = 1 ∨ (bs = [] ∧ t.status = 0x32)
      | .statRd _ => bs.length = 1 ∨ (bs = [] ∧ t.status = 0x32)
      | .crcInit => bs = []
      | .crcByte _ => bs = []
      | .crcVerify => bs = []
      | .buildRd _ _ _ => bs = []
      | .buildWr _ _ _ => bs = []
      | .rxClr => bs = []
      | .rxPush _ => bs = []
      | .check => bs = []

/-- 20_memory.md R51, R66, 10_state.md R39: which operation writes which buffer; none writes the command stream or
changes a parameter, and none copies between the buffers. That RX.CLR and a shorter BUILD leave the bytes no longer
valid as they were is the model's choice (log 22). -/
def Obligations.OperationsKeepToTheirBuffers : Prop :=
  ∀ (i : Instr) (s t : State), exec i s = .next t →
    t.cmdIn = s.cmdIn ∧ t.cfg = s.cfg ∧
    (t.txbuf = s.txbuf ∨ ∃ addr start bc data, i = .buildRd addr start bc ∨ i = .buildWr addr start data) ∧
    (t.rxbuf = s.rxbuf ∨ ∃ b, i = .rxPush b) ∧
    (Memory.wf s.rxbuf → ∀ a, a < s.rxlen.toNat → Memory.read t.rxbuf a = Memory.read s.rxbuf a) ∧
    (i ≠ .rxClr → s.rxlen.toNat ≤ t.rxlen.toNat)

/-! ### Transactions and the transport -/

/-- 44_transaction.md R211, R212, 41_build.md R153: with bad arguments a transaction ends in an argument error
whatever the transport would answer, and the transport is not asked. The model's choices in the state it leaves: the
context registers (log 5) and TXBUF (log 22) are those of before, and no STAT.RD byte is on the result stream, since the
transaction reads STATUS directly (log 16). -/
def Obligations.ArgumentErrorTouchesNoTransport : Prop :=
  ∀ (o : Oracle) (s : State) (addr : Byte) (start : Word),
    (∀ bc : Byte, ¬ (AddressOk addr ∧ CountOk 250 bc.toNat) →
      xactRead o addr start bc s =
        .next (rejected (argumentCode addr bc.toNat) s, .argError (argumentCode addr bc.toNat))) ∧
    (∀ data : List Byte, data.length ≤ 255 → ¬ (AddressOk addr ∧ CountOk 246 data.length) →
      xactWrite o addr start data s =
        .next (rejected (argumentCode addr data.length) s, .argError (argumentCode addr data.length)))

/-- 44_transaction.md R211, R212, R214: the codes each outcome of a transaction can carry, the STATUS it leaves, and
what it puts on the result stream: the frame once the arguments are accepted (TX.DUMP), then the data of a success
(RES.DUMP). That nothing else is there, no STAT.RD byte of the registers read, is the model's choice (log 16). -/
def Obligations.TransactionOutcomesAreClassified : Prop :=
  ∀ (o : Oracle) (s t : State) (addr : Byte) (start : Word) (bc : Byte) (data : List Byte) (r : XactOutcome),
    (xactRead o addr start bc s = .next (t, r) ∨ xactWrite o addr start data s = .next (t, r)) →
    match r with
    | .argError code => code = t.status ∧ code ∈ [0x10, 0x11, 0x12, 0x13] ∧ t.result = s.result
    | .transportError _ => t.status = 0x01 ∧ t.ctxv = true ∧ t.result = s.result ++ txFrame t
    | .timeout _ _ => t.status = 0x01 ∧ t.ctxv = true ∧ t.result = s.result ++ txFrame t
    | .protocolError code =>
      code = t.status ∧ code ∈ [0x20, 0x21, 0x22, 0x23, 0x24, 0x25, 0x26] ∧ t.result = s.result ++ txFrame t
    | .success bytes => t.status = 0x02 ∧ bytes = resultData t ∧ t.result = s.result ++ txFrame t ++ bytes
    | .deviceException raw member =>
      t.status = 0x03 ∧ raw = t.exc ∧ member = t.excm ∧ t.result = s.result ++ txFrame t

/-- 44_transaction.md R211, the document's end-to-end scenario (95_test_vectors.md E6) for every accepted write: the
transport is handed the frame, and a device that echoes the start register and any count gives Success with those four
bytes. That the result stream gets the frame and the data and nothing else, no STAT.RD byte of the registers read, is
the model's choice (log 16). -/
def Obligations.WriteTransactionRoundTrip : Prop :=
  ∀ (o : Oracle) (s : State) (addr : Byte) (start : Word) (data : List Byte) (k : Nat) (c d : Byte),
    Memory.wf s.txbuf → Memory.wf s.rxbuf → AddressOk addr → CountOk 246 data.length →
    o.write (writeRequest addr start data) = .written k →
    o.readExact 8 = .bytes (withCrc [addr, 0x10, beHi start, beLo start, c, d]) →
    ∃ t, xactWrite o addr start data s = .next (t, .success [beHi start, beLo start, c, d]) ∧
      t.status = 0x02 ∧ txFrame t = writeRequest addr start data ∧
      t.result = s.result ++ writeRequest addr start data ++ [beHi start, beLo start, c, d]

/-- 44_transaction.md R212, 43_check.md R184: for every accepted read, a device that answers with the bytes wanted
gives Success with exactly those bytes. That the result stream gets the frame and the data and nothing else, no STAT.RD
byte of the registers read, is the model's choice (log 16). -/
def Obligations.ReadTransactionRoundTrip : Prop :=
  ∀ (o : Oracle) (s : State) (addr : Byte) (start : Word) (bc : Byte) (k : Nat) (bytes : List Byte),
    Memory.wf s.txbuf → Memory.wf s.rxbuf → AddressOk addr → CountOk 250 bc.toNat → bytes.length = bc.toNat →
    o.write (readRequest addr start bc) = .written k →
    o.readExact (5 + bc.toNat) = .bytes (withCrc ([addr, 0x04, bc] ++ bytes)) →
    ∃ t, xactRead o addr start bc s = .next (t, .success bytes) ∧
      t.status = 0x02 ∧ txFrame t = readRequest addr start bc ∧
      t.result = s.result ++ readRequest addr start bc ++ bytes

/-- 44_transaction.md R215: a transaction reads nothing of what was before it. From two states with the same parameters
and canonical buffers, whatever else they hold, one transport gives the same outcome, STATUS and request frame. -/
def Obligations.TransactionReadsNothingFromBefore : Prop :=
  ∀ (o : Oracle) (s s' t : State) (addr : Byte) (start : Word) (bc : Byte) (data : List Byte) (r : XactOutcome),
    Memory.wf s.txbuf → Memory.wf s.rxbuf → Memory.wf s'.txbuf → Memory.wf s'.rxbuf → s.cfg = s'.cfg →
    (xactRead o addr start bc s = .next (t, r) →
      ∃ t', xactRead o addr start bc s' = .next (t', r) ∧ t'.status = t.status ∧ txFrame t' = txFrame t) ∧
    (xactWrite o addr start data s = .next (t, r) →
      ∃ t', xactWrite o addr start data s' = .next (t', r) ∧ t'.status = t.status ∧ txFrame t' = txFrame t)

/-- 44_transaction.md R213: a read that times out on a bare five-byte exception frame is a timeout under the policy
`timeout`, and the device's exception under `validate_partial`, for both transactions. -/
def Obligations.ShortExceptionFollowsThePolicy : Prop :=
  ∀ (o : Oracle) (s : State) (addr : Byte) (start : Word) (bc : Byte) (data : List Byte) (fn raw x y : Byte),
    Memory.wf s.txbuf → Memory.wf s.rxbuf → AddressOk addr → CountOk 250 bc.toNat → CountOk 246 data.length →
    fn.getLsbD 7 = true → (∀ f, ∃ k, o.write f = .written k) →
    (∀ n, 5 < n → o.readExact n = .timeout [addr, fn, raw, x, y]) →
    (s.cfg.shortResponse = .timeout →
      (∃ t, xactRead o addr start bc s = .next (t, .timeout .read (some 5)) ∧ t.status = 0x01 ∧ t.ctxv = true) ∧
      (∃ t, xactWrite o addr start data s = .next (t, .timeout .read (some 5)) ∧ t.status = 0x01 ∧ t.ctxv = true)) ∧
    (s.cfg.shortResponse = .validatePartial →
      (∃ t, xactRead o addr start bc s =
        .next (t, .deviceException raw (memberId (excMember s.cfg.excMap raw))) ∧ t.status = 0x03) ∧
      (∃ t, xactWrite o addr start data s =
        .next (t, .deviceException raw (memberId (excMember s.cfg.excMap raw))) ∧ t.status = 0x03))

/-- 44_transaction.md R201 to R205, R207, R209: the life cycle of the transport handle, and its calls but
`ReadExact`. How much of a write that ends early has gone out is the line's answer (log 23). The model's choices: the
read-timeout can be written on a closed handle too (log 24); bytes sent, by a completed write too, stay pending output
until they are dropped (log 25); a closed handle is reported before a read of no bytes is (log 18); the counts of
openings and releases are the model's own (log 15). -/
def Obligations.HandleLifeCycle : Prop :=
  ∀ h : Handle,
    (h.isOpen = true →
      (∀ ok, openHandle ok h = .error .alreadyOpen) ∧
      (∀ ready, readAvailable ready h = .ok (h.input ++ ready, { h with input := [] })) ∧
      discardBuffers h = { h with input := [], output := [] } ∧
      (∀ line, writeHandle line [] h = (.failure .emptyWrite, h)) ∧
      (∀ bs, bs ≠ [] →
        writeHandle .done bs h = (.written bs.length, { h with output := h.output ++ bs }) ∧
        (∀ k, writeHandle (.deadline k) bs h = (.timeout, { h with output := h.output ++ bs.take k })) ∧
        (∀ k, writeHandle (.failed k) bs h = (.failure .ioFailure, { h with output := h.output ++ bs.take k })))) ∧
    (h.isOpen = false →
      openHandle false h = .error (.io .ioFailure) ∧
      openHandle true h = .ok { h with isOpen := true, input := [], output := [], opened := h.opened + 1 } ∧
      closeHandle h = h ∧ discardBuffers h = h ∧ (∀ ready, readAvailable ready h = .error (.io .notOpen)) ∧
      (∀ line bs, bs ≠ [] → writeHandle line bs h = (.failure .notOpen, h)) ∧
      (∀ n line, readExact n line h = .ok (.failure .notOpen, h))) ∧
    closeHandle (closeHandle h) = closeHandle h ∧ (closeHandle h).isOpen = false ∧
    (∀ ms, 0 < ms → setReadTimeout ms h = .ok { h with readTimeout := ms }) ∧
    (h.opened = h.released + (if h.isOpen then 1 else 0) → (closeHandle h).opened = (closeHandle h).released)

/-- 44_transaction.md R206: `ReadExact(n)` answers exactly n bytes, or a timeout with fewer, or a failure; chunks that
all arrive in time and hold n bytes together give their first n bytes; chunks that hold fewer, followed by one after the
deadline or by nothing, time out with what was collected. That pending bytes come
first is DEDUCED (log 19). -/
def Obligations.ReadExactAnswersExactly : Prop :=
  ∀ (n : Nat) (line : List LineRead) (h : Handle), h.isOpen = true → 0 < n → 0 < h.readTimeout →
    ∃ (answer : ReadAnswer) (h' : Handle), readExact n line h = .ok (answer, h') ∧
    (∀ bs, answer = .bytes bs → bs.length = n) ∧
    (∀ bs, answer = .timeout bs → bs.length < n) ∧
    (∀ (chunks : List (Nat × List Byte)) (rest : List LineRead),
      line = chunks.map (fun c => .bytes c.1 c.2) ++ rest → (∀ c ∈ chunks, c.1 < h.readTimeout ∧ c.2 ≠ []) →
      (n ≤ (h.input ++ (chunks.map Prod.snd).flatten).length →
        answer = .bytes ((h.input ++ (chunks.map Prod.snd).flatten).take n)) ∧
      ((h.input ++ (chunks.map Prod.snd).flatten).length < n →
        (rest = [] ∨ ∃ late bs more, rest = .bytes late bs :: more ∧ h.readTimeout < late) →
        answer = .timeout (h.input ++ (chunks.map Prod.snd).flatten)))

/-- 44_transaction.md R214: every transaction ends in an outcome, for every transport that keeps the contract of R204
and R206, from every state: no answer of such a transport overfills RXBUF. -/
def Obligations.EveryTransactionEnds : Prop :=
  ∀ (o : Oracle) (s : State) (addr : Byte) (start : Word) (bc : Byte) (data : List Byte),
    (∃ t r, xactRead o addr start bc s = .next (t, r)) ∧ (∃ t r, xactWrite o addr start data s = .next (t, r))

/-- 44_transaction.md R212, R216: since ReadExact answers exactly EXPLEN bytes, neither a short response nor a wrong
total length is reported inside a read transaction under the policy `timeout`. -/
def Obligations.WholeReadIsNeverOfWrongLength : Prop :=
  ∀ (o : Oracle) (s t : State) (addr : Byte) (start : Word) (bc : Byte) (r : XactOutcome),
    s.cfg.shortResponse = .timeout → xactRead o addr start bc s = .next (t, r) →
    r ≠ .protocolError 0x24 ∧ r ≠ .protocolError 0x20

/-- 44_transaction.md R204, R206, R209: the oracle a handle makes answers what the handle's `Write` and `ReadExact`
answer. -/
def Obligations.HandleOracleIsTheHandle : Prop :=
  ∀ (line : LineWrite) (reads : List LineRead) (h : Handle) (n : Nat), 0 < n → 0 < h.readTimeout →
    (∀ bs, (handleOracle line reads h).write bs = (writeHandle line bs h).1) ∧
    ∃ h', readExact n reads h = .ok ((handleOracle line reads h).readExact n, h')
end

