-- ==== Sys2Proof/Laws/Memory.lean ====
section
/-! SUPPORT. Laws of the buffers: read after write, the canonical form, and byte sequences. -/

namespace Sys2Proof.Machine

/-- Every index of the list lies above `k`. -/
theorem Memory.read_of_lt {m : Memory} {k : Nat} (h : ∀ c ∈ m, k < c.1) : Memory.read m k = unwrittenByte := by
  induction m with
  | nil => rfl
  | cons c m ih =>
    have hc := h c (by simp)
    have : c.1 ≠ k := by omega
    simp only [Memory.read, if_neg this]
    exact ih fun d hd => h d (by simp [hd])

theorem Memory.read_put {m : Memory} {i : Nat} {v : Byte} (h : ∀ c ∈ m, i < c.1) (j : Nat) :
    Memory.read (Memory.put i v m) j = if j = i then v else Memory.read m j := by
  unfold Memory.put
  split
  · rename_i hv
    split
    · rename_i hj
      rw [hj, hv, Memory.read_of_lt h]
    · rfl
  · by_cases hj : j = i
    · simp [Memory.read, hj]
    · simp [Memory.read, hj, Ne.symm hj]

/-- Read after write, in canonical memories: the byte written at its index, every other index as before. -/
theorem Memory.read_write {m : Memory} (h : Memory.wf m) (i : Nat) (v : Byte) (j : Nat) :
    Memory.read (Memory.write m i v) j = if j = i then v else Memory.read m j := by
  obtain ⟨hs, hc⟩ := h
  induction m with
  | nil => exact Memory.read_put (by simp) j
  | cons c m ih =>
    obtain ⟨a, b⟩ := c
    rw [List.pairwise_cons] at hs
    unfold Memory.write
    split
    · rename_i hia
      refine Memory.read_put ?_ j
      intro d hd
      rcases List.mem_cons.mp hd with rfl | hd
      · exact hia
      · have := hs.1 d hd
        simp only at this
        omega
    split
    · rename_i hia
      subst hia
      rw [Memory.read_put hs.1]
      by_cases hj : j = i
      · simp [hj]
      · simp [Memory.read, hj, Ne.symm hj]
    · rename_i hne
      have := ih hs.2 (fun d hd => hc d (by simp [hd]))
      by_cases hj : a = j
      · subst hj
        simp [Memory.read, Ne.symm hne]
      · simp [Memory.read, hj, this]

theorem Memory.mem_write {m : Memory} {i : Nat} {v : Byte} {d : Host.Cell} (h : d ∈ Memory.write m i v) :
    d = (i, v) ∧ v ≠ unwrittenByte ∨ d ∈ m := by
  induction m with
  | nil =>
    unfold Memory.write Memory.put at h
    split at h <;> simp_all
  | cons c m ih =>
    obtain ⟨a, b⟩ := c
    simp only [Memory.write, Memory.put] at h
    split at h
    · split at h <;> simp_all
    split at h
    · split at h <;> simp_all
      grind
    · rcases List.mem_cons.mp h with rfl | h
      · simp
      · rcases ih h with h | h
        · exact .inl h
        · exact .inr (by simp [h])

/-- A write keeps the canonical form. -/
theorem Memory.wf_write {m : Memory} (h : Memory.wf m) {i : Nat} (hi : i < bufferCap) (v : Byte) :
    Memory.wf (Memory.write m i v) := by
  refine ⟨?_, ?_⟩
  · obtain ⟨hs, -⟩ := h
    induction m with
    | nil => unfold Memory.write Memory.put; split <;> simp
    | cons c m ih =>
      obtain ⟨a, b⟩ := c
      have hs' := hs
      rw [List.pairwise_cons] at hs
      simp only [Memory.write, Memory.put]
      split
      · rename_i hia
        split
        · exact hs'
        · refine List.pairwise_cons.mpr ⟨?_, hs'⟩
          intro d hd
          rcases List.mem_cons.mp hd with rfl | hd
          · exact hia
          · have := hs.1 d hd
            simp only at this ⊢
            omega
      split
      · rename_i hia
        subst hia
        split
        · exact hs.2
        · exact List.pairwise_cons.mpr ⟨hs.1, hs.2⟩
      · rename_i hlt hne
        refine List.pairwise_cons.mpr ⟨?_, ih hs.2⟩
        intro d hd
        rcases Memory.mem_write hd with ⟨rfl, -⟩ | hd
        · simp only
          omega
        · exact hs.1 d hd
  · intro d hd
    rcases Memory.mem_write hd with ⟨rfl, hv⟩ | hd
    · exact ⟨hi, hv⟩
    · exact h.2 d hd

/-- Writing a byte sequence that fits keeps the canonical form. -/
theorem Memory.wf_writeFrom {m : Memory} (h : Memory.wf m) {i : Nat} {vs : List Byte}
    (hi : i + vs.length ≤ bufferCap) : Memory.wf (Memory.writeFrom m i vs) := by
  induction vs generalizing m i with
  | nil => exact h
  | cons v vs ih =>
    simp only [List.length_cons] at hi
    exact ih (Memory.wf_write h (by omega) v) (by omega)

/-- What a buffer reads as after a byte sequence was written. -/
theorem Memory.read_writeFrom {m : Memory} (h : Memory.wf m) {i : Nat} {vs : List Byte}
    (hi : i + vs.length ≤ bufferCap) (j : Nat) :
    Memory.read (Memory.writeFrom m i vs) j =
      if i ≤ j ∧ j < i + vs.length then byteAt vs (j - i) else Memory.read m j := by
  induction vs generalizing m i with
  | nil => simp [Memory.writeFrom]
  | cons v vs ih =>
    simp only [List.length_cons] at hi
    have hw := Memory.wf_write h (i := i) (by omega) v
    have hr := ih hw (i := i + 1) (by omega)
    rw [Memory.writeFrom, hr, List.length_cons]
    by_cases h1 : j = i
    · subst h1
      rw [if_neg (by omega), if_pos (by omega), Memory.read_write h, if_pos rfl, Nat.sub_self]
      rfl
    · by_cases h2 : i ≤ j ∧ j < i + (vs.length + 1)
      · have h4 : j - i = (j - (i + 1)) + 1 := by omega
        rw [if_pos (by omega), if_pos h2, h4]
        rfl
      · rw [if_neg (by omega), if_neg h2, Memory.read_write h, if_neg h1]

@[simp] theorem Memory.length_readRange (m : Memory) (i k : Nat) : (Memory.readRange m i k).length = k := by
  induction k generalizing i with
  | zero => rfl
  | succ k ih => simp [Memory.readRange, ih]

theorem Memory.getElem?_readRange (m : Memory) (i k j : Nat) :
    (Memory.readRange m i k)[j]? = if j < k then some (Memory.read m (i + j)) else none := by
  induction k generalizing i j with
  | zero => simp [Memory.readRange]
  | succ k ih =>
    cases j with
    | zero => simp [Memory.readRange]
    | succ j =>
      simp only [Memory.readRange, List.getElem?_cons_succ, ih]
      have : i + 1 + j = i + (j + 1) := by omega
      simp [this]

theorem byteAt_readRange {m : Memory} {i k j : Nat} (h : j < k) :
    byteAt (Memory.readRange m i k) j = Memory.read m (i + j) := by
  rw [byteAt, List.getD, Memory.getElem?_readRange, if_pos h, Option.getD_some]

/-- Two ranges are equal when the buffers read alike on them. -/
theorem Memory.readRange_congr {m n : Memory} {i k : Nat}
    (h : ∀ j, i ≤ j → j < i + k → Memory.read m j = Memory.read n j) :
    Memory.readRange m i k = Memory.readRange n i k := by
  apply List.ext_getElem?
  intro j
  simp only [Memory.getElem?_readRange]
  split
  · rw [h (i + j) (by omega) (by omega)]
  · rfl

/-- A range that runs one byte further. -/
theorem Memory.readRange_succ (m : Memory) (i k : Nat) :
    Memory.readRange m i (k + 1) = Memory.readRange m i k ++ [Memory.read m (i + k)] := by
  induction k generalizing i with
  | zero => simp [Memory.readRange]
  | succ k ih =>
    rw [Memory.readRange, ih, Memory.readRange]
    have : i + 1 + k = i + (k + 1) := by omega
    simp [this]

/-- Reading back the byte sequence just written. -/
theorem Memory.readRange_writeFrom {m : Memory} (h : Memory.wf m) {vs : List Byte} (hv : vs.length ≤ bufferCap) :
    Memory.readRange (Memory.writeFrom m 0 vs) 0 vs.length = vs := by
  apply List.ext_getElem?
  intro j
  have hr := Memory.read_writeFrom h (i := 0) (vs := vs) (by omega) j
  rw [Memory.getElem?_readRange, Nat.zero_add, hr]
  by_cases hj : j < vs.length
  · rw [if_pos hj, if_pos (by omega), Nat.sub_zero, byteAt, List.getD, List.getElem?_eq_getElem hj,
      Option.getD_some]
  · rw [if_neg hj, List.getElem?_eq_none (by omega)]

/-- The buffers after reset are in canonical form. -/
theorem State.reset_buffers_wf : Memory.wf State.reset.txbuf ∧ Memory.wf State.reset.rxbuf := by decide

@[simp] theorem length_txFrame (s : State) : (txFrame s).length = s.txlen.toNat := by simp [txFrame]

@[simp] theorem length_rxFrame (s : State) : (rxFrame s).length = s.rxlen.toNat := by simp [rxFrame]

/-- An index of the valid request bytes reads the buffer. -/
theorem byteAt_txFrame {s : State} {i : Nat} (h : i < s.txlen.toNat) :
    byteAt (txFrame s) i = Memory.read s.txbuf i := by
  rw [txFrame, byteAt_readRange h, Nat.zero_add]

/-- An index of the valid response bytes reads the buffer. -/
theorem byteAt_rxFrame {s : State} {i : Nat} (h : i < s.rxlen.toNat) :
    byteAt (rxFrame s) i = Memory.read s.rxbuf i := by
  rw [rxFrame, byteAt_readRange h, Nat.zero_add]

end Sys2Proof.Machine
end

