-- ==== Sys2Proof/Laws/State.lean ====
section
/-! SUPPORT. What each update of the state does to each field: one lemma per field per update, true by rfl, so that no
later proof unfolds a record update. -/

namespace Sys2Proof.Machine

section outFields
variable (v : Byte) (s : State)

@[simp] theorem out_acc : (out v s).acc = s.acc := rfl
@[simp] theorem out_txbuf : (out v s).txbuf = s.txbuf := rfl
@[simp] theorem out_txlen : (out v s).txlen = s.txlen := rfl
@[simp] theorem out_rxbuf : (out v s).rxbuf = s.rxbuf := rfl
@[simp] theorem out_rxlen : (out v s).rxlen = s.rxlen := rfl
@[simp] theorem out_status : (out v s).status = s.status := rfl
@[simp] theorem out_ctxv : (out v s).ctxv = s.ctxv := rfl
@[simp] theorem out_crcok : (out v s).crcok = s.crcok := rfl
@[simp] theorem out_reqAddr : (out v s).reqAddr = s.reqAddr := rfl
@[simp] theorem out_reqFunc : (out v s).reqFunc = s.reqFunc := rfl
@[simp] theorem out_reqStart : (out v s).reqStart = s.reqStart := rfl
@[simp] theorem out_reqBc : (out v s).reqBc = s.reqBc := rfl
@[simp] theorem out_explen : (out v s).explen = s.explen := rfl
@[simp] theorem out_exc : (out v s).exc = s.exc := rfl
@[simp] theorem out_excm : (out v s).excm = s.excm := rfl
@[simp] theorem out_doff : (out v s).doff = s.doff := rfl
@[simp] theorem out_dlen : (out v s).dlen = s.dlen := rfl
@[simp] theorem out_cmdIn : (out v s).cmdIn = s.cmdIn := rfl
@[simp] theorem out_result : (out v s).result = s.result ++ [v] := rfl
@[simp] theorem out_cfg : (out v s).cfg = s.cfg := rfl
@[simp] theorem out_draws : (out v s).draws = s.draws := rfl

end outFields

section consumeToFields
variable (bs : List Byte) (s : State)

@[simp] theorem consumeTo_acc : (consumeTo bs s).acc = s.acc := rfl
@[simp] theorem consumeTo_txbuf : (consumeTo bs s).txbuf = s.txbuf := rfl
@[simp] theorem consumeTo_txlen : (consumeTo bs s).txlen = s.txlen := rfl
@[simp] theorem consumeTo_rxbuf : (consumeTo bs s).rxbuf = s.rxbuf := rfl
@[simp] theorem consumeTo_rxlen : (consumeTo bs s).rxlen = s.rxlen := rfl
@[simp] theorem consumeTo_status : (consumeTo bs s).status = s.status := rfl
@[simp] theorem consumeTo_ctxv : (consumeTo bs s).ctxv = s.ctxv := rfl
@[simp] theorem consumeTo_crcok : (consumeTo bs s).crcok = s.crcok := rfl
@[simp] theorem consumeTo_reqAddr : (consumeTo bs s).reqAddr = s.reqAddr := rfl
@[simp] theorem consumeTo_reqFunc : (consumeTo bs s).reqFunc = s.reqFunc := rfl
@[simp] theorem consumeTo_reqStart : (consumeTo bs s).reqStart = s.reqStart := rfl
@[simp] theorem consumeTo_reqBc : (consumeTo bs s).reqBc = s.reqBc := rfl
@[simp] theorem consumeTo_explen : (consumeTo bs s).explen = s.explen := rfl
@[simp] theorem consumeTo_exc : (consumeTo bs s).exc = s.exc := rfl
@[simp] theorem consumeTo_excm : (consumeTo bs s).excm = s.excm := rfl
@[simp] theorem consumeTo_doff : (consumeTo bs s).doff = s.doff := rfl
@[simp] theorem consumeTo_dlen : (consumeTo bs s).dlen = s.dlen := rfl
@[simp] theorem consumeTo_cmdIn : (consumeTo bs s).cmdIn = bs := rfl
@[simp] theorem consumeTo_result : (consumeTo bs s).result = s.result := rfl
@[simp] theorem consumeTo_cfg : (consumeTo bs s).cfg = s.cfg := rfl
@[simp] theorem consumeTo_draws : (consumeTo bs s).draws = s.draws := rfl

end consumeToFields

section hostSendFields
variable (bs : List Byte) (s : State)

@[simp] theorem hostSend_acc : (hostSend bs s).acc = s.acc := rfl
@[simp] theorem hostSend_txbuf : (hostSend bs s).txbuf = s.txbuf := rfl
@[simp] theorem hostSend_txlen : (hostSend bs s).txlen = s.txlen := rfl
@[simp] theorem hostSend_rxbuf : (hostSend bs s).rxbuf = s.rxbuf := rfl
@[simp] theorem hostSend_rxlen : (hostSend bs s).rxlen = s.rxlen := rfl
@[simp] theorem hostSend_status : (hostSend bs s).status = s.status := rfl
@[simp] theorem hostSend_ctxv : (hostSend bs s).ctxv = s.ctxv := rfl
@[simp] theorem hostSend_crcok : (hostSend bs s).crcok = s.crcok := rfl
@[simp] theorem hostSend_reqAddr : (hostSend bs s).reqAddr = s.reqAddr := rfl
@[simp] theorem hostSend_reqFunc : (hostSend bs s).reqFunc = s.reqFunc := rfl
@[simp] theorem hostSend_reqStart : (hostSend bs s).reqStart = s.reqStart := rfl
@[simp] theorem hostSend_reqBc : (hostSend bs s).reqBc = s.reqBc := rfl
@[simp] theorem hostSend_explen : (hostSend bs s).explen = s.explen := rfl
@[simp] theorem hostSend_exc : (hostSend bs s).exc = s.exc := rfl
@[simp] theorem hostSend_excm : (hostSend bs s).excm = s.excm := rfl
@[simp] theorem hostSend_doff : (hostSend bs s).doff = s.doff := rfl
@[simp] theorem hostSend_dlen : (hostSend bs s).dlen = s.dlen := rfl
@[simp] theorem hostSend_cmdIn : (hostSend bs s).cmdIn = s.cmdIn ++ bs := rfl
@[simp] theorem hostSend_result : (hostSend bs s).result = s.result := rfl
@[simp] theorem hostSend_cfg : (hostSend bs s).cfg = s.cfg := rfl
@[simp] theorem hostSend_draws : (hostSend bs s).draws = s.draws := rfl

end hostSendFields

section clearViewFields
variable (s : State)

@[simp] theorem clearView_acc : (clearView s).acc = s.acc := rfl
@[simp] theorem clearView_txbuf : (clearView s).txbuf = s.txbuf := rfl
@[simp] theorem clearView_txlen : (clearView s).txlen = s.txlen := rfl
@[simp] theorem clearView_rxbuf : (clearView s).rxbuf = s.rxbuf := rfl
@[simp] theorem clearView_rxlen : (clearView s).rxlen = s.rxlen := rfl
@[simp] theorem clearView_status : (clearView s).status = s.status := rfl
@[simp] theorem clearView_ctxv : (clearView s).ctxv = s.ctxv := rfl
@[simp] theorem clearView_crcok : (clearView s).crcok = s.crcok := rfl
@[simp] theorem clearView_reqAddr : (clearView s).reqAddr = s.reqAddr := rfl
@[simp] theorem clearView_reqFunc : (clearView s).reqFunc = s.reqFunc := rfl
@[simp] theorem clearView_reqStart : (clearView s).reqStart = s.reqStart := rfl
@[simp] theorem clearView_reqBc : (clearView s).reqBc = s.reqBc := rfl
@[simp] theorem clearView_explen : (clearView s).explen = s.explen := rfl
@[simp] theorem clearView_exc : (clearView s).exc = s.exc := rfl
@[simp] theorem clearView_excm : (clearView s).excm = s.excm := rfl
@[simp] theorem clearView_doff : (clearView s).doff = 0 := rfl
@[simp] theorem clearView_dlen : (clearView s).dlen = 0 := rfl
@[simp] theorem clearView_cmdIn : (clearView s).cmdIn = s.cmdIn := rfl
@[simp] theorem clearView_result : (clearView s).result = s.result := rfl
@[simp] theorem clearView_cfg : (clearView s).cfg = s.cfg := rfl
@[simp] theorem clearView_draws : (clearView s).draws = s.draws := rfl

end clearViewFields

section clearResultFields
variable (s : State)

@[simp] theorem clearResult_acc : (clearResult s).acc = s.acc := rfl
@[simp] theorem clearResult_txbuf : (clearResult s).txbuf = s.txbuf := rfl
@[simp] theorem clearResult_txlen : (clearResult s).txlen = s.txlen := rfl
@[simp] theorem clearResult_rxbuf : (clearResult s).rxbuf = s.rxbuf := rfl
@[simp] theorem clearResult_rxlen : (clearResult s).rxlen = s.rxlen := rfl
@[simp] theorem clearResult_status : (clearResult s).status = s.status := rfl
@[simp] theorem clearResult_ctxv : (clearResult s).ctxv = s.ctxv := rfl
@[simp] theorem clearResult_crcok : (clearResult s).crcok = s.crcok := rfl
@[simp] theorem clearResult_reqAddr : (clearResult s).reqAddr = s.reqAddr := rfl
@[simp] theorem clearResult_reqFunc : (clearResult s).reqFunc = s.reqFunc := rfl
@[simp] theorem clearResult_reqStart : (clearResult s).reqStart = s.reqStart := rfl
@[simp] theorem clearResult_reqBc : (clearResult s).reqBc = s.reqBc := rfl
@[simp] theorem clearResult_explen : (clearResult s).explen = s.explen := rfl
@[simp] theorem clearResult_exc : (clearResult s).exc = 0 := rfl
@[simp] theorem clearResult_excm : (clearResult s).excm = 0 := rfl
@[simp] theorem clearResult_doff : (clearResult s).doff = 0 := rfl
@[simp] theorem clearResult_dlen : (clearResult s).dlen = 0 := rfl
@[simp] theorem clearResult_cmdIn : (clearResult s).cmdIn = s.cmdIn := rfl
@[simp] theorem clearResult_result : (clearResult s).result = s.result := rfl
@[simp] theorem clearResult_cfg : (clearResult s).cfg = s.cfg := rfl
@[simp] theorem clearResult_draws : (clearResult s).draws = s.draws := rfl

end clearResultFields

section drawOutFields
variable (s : State)

@[simp] theorem drawOut_acc : (drawOut s).acc = s.acc := rfl
@[simp] theorem drawOut_txbuf : (drawOut s).txbuf = s.txbuf := rfl
@[simp] theorem drawOut_txlen : (drawOut s).txlen = s.txlen := rfl
@[simp] theorem drawOut_rxbuf : (drawOut s).rxbuf = s.rxbuf := rfl
@[simp] theorem drawOut_rxlen : (drawOut s).rxlen = s.rxlen := rfl
@[simp] theorem drawOut_status : (drawOut s).status = s.status := rfl
@[simp] theorem drawOut_ctxv : (drawOut s).ctxv = s.ctxv := rfl
@[simp] theorem drawOut_crcok : (drawOut s).crcok = s.crcok := rfl
@[simp] theorem drawOut_reqAddr : (drawOut s).reqAddr = s.reqAddr := rfl
@[simp] theorem drawOut_reqFunc : (drawOut s).reqFunc = s.reqFunc := rfl
@[simp] theorem drawOut_reqStart : (drawOut s).reqStart = s.reqStart := rfl
@[simp] theorem drawOut_reqBc : (drawOut s).reqBc = s.reqBc := rfl
@[simp] theorem drawOut_explen : (drawOut s).explen = s.explen := rfl
@[simp] theorem drawOut_exc : (drawOut s).exc = s.exc := rfl
@[simp] theorem drawOut_excm : (drawOut s).excm = s.excm := rfl
@[simp] theorem drawOut_doff : (drawOut s).doff = s.doff := rfl
@[simp] theorem drawOut_dlen : (drawOut s).dlen = s.dlen := rfl
@[simp] theorem drawOut_cmdIn : (drawOut s).cmdIn = s.cmdIn := rfl
@[simp] theorem drawOut_result : (drawOut s).result = s.result ++ [Config.freeByte s.draws] := rfl
@[simp] theorem drawOut_cfg : (drawOut s).cfg = s.cfg := rfl
@[simp] theorem drawOut_draws : (drawOut s).draws = s.draws + 1 := rfl

end drawOutFields

section dropContextFields
variable (s : State)

@[simp] theorem dropContext_acc : (dropContext s).acc = s.acc := rfl
@[simp] theorem dropContext_txbuf : (dropContext s).txbuf = s.txbuf := rfl
@[simp] theorem dropContext_txlen : (dropContext s).txlen = s.txlen := rfl
@[simp] theorem dropContext_rxbuf : (dropContext s).rxbuf = s.rxbuf := rfl
@[simp] theorem dropContext_rxlen : (dropContext s).rxlen = s.rxlen := rfl
@[simp] theorem dropContext_status : (dropContext s).status = s.status := rfl
@[simp] theorem dropContext_ctxv : (dropContext s).ctxv = false := rfl
@[simp] theorem dropContext_crcok : (dropContext s).crcok = s.crcok := rfl
@[simp] theorem dropContext_reqAddr : (dropContext s).reqAddr = s.reqAddr := rfl
@[simp] theorem dropContext_reqFunc : (dropContext s).reqFunc = s.reqFunc := rfl
@[simp] theorem dropContext_reqStart : (dropContext s).reqStart = s.reqStart := rfl
@[simp] theorem dropContext_reqBc : (dropContext s).reqBc = s.reqBc := rfl
@[simp] theorem dropContext_explen : (dropContext s).explen = s.explen := rfl
@[simp] theorem dropContext_exc : (dropContext s).exc = s.exc := rfl
@[simp] theorem dropContext_excm : (dropContext s).excm = s.excm := rfl
@[simp] theorem dropContext_doff : (dropContext s).doff = s.doff := rfl
@[simp] theorem dropContext_dlen : (dropContext s).dlen = s.dlen := rfl
@[simp] theorem dropContext_cmdIn : (dropContext s).cmdIn = s.cmdIn := rfl
@[simp] theorem dropContext_result : (dropContext s).result = s.result := rfl
@[simp] theorem dropContext_cfg : (dropContext s).cfg = s.cfg := rfl
@[simp] theorem dropContext_draws : (dropContext s).draws = s.draws := rfl

end dropContextFields

section compareCrcFields
variable (r : List Byte) (s : State)

@[simp] theorem compareCrc_acc : (compareCrc r s).acc = crc16 (frameBody r) := rfl
@[simp] theorem compareCrc_txbuf : (compareCrc r s).txbuf = s.txbuf := rfl
@[simp] theorem compareCrc_txlen : (compareCrc r s).txlen = s.txlen := rfl
@[simp] theorem compareCrc_rxbuf : (compareCrc r s).rxbuf = s.rxbuf := rfl
@[simp] theorem compareCrc_rxlen : (compareCrc r s).rxlen = s.rxlen := rfl
@[simp] theorem compareCrc_status : (compareCrc r s).status = s.status := rfl
@[simp] theorem compareCrc_ctxv : (compareCrc r s).ctxv = s.ctxv := rfl
@[simp] theorem compareCrc_crcok : (compareCrc r s).crcok = crcOk r := rfl
@[simp] theorem compareCrc_reqAddr : (compareCrc r s).reqAddr = s.reqAddr := rfl
@[simp] theorem compareCrc_reqFunc : (compareCrc r s).reqFunc = s.reqFunc := rfl
@[simp] theorem compareCrc_reqStart : (compareCrc r s).reqStart = s.reqStart := rfl
@[simp] theorem compareCrc_reqBc : (compareCrc r s).reqBc = s.reqBc := rfl
@[simp] theorem compareCrc_explen : (compareCrc r s).explen = s.explen := rfl
@[simp] theorem compareCrc_exc : (compareCrc r s).exc = s.exc := rfl
@[simp] theorem compareCrc_excm : (compareCrc r s).excm = s.excm := rfl
@[simp] theorem compareCrc_doff : (compareCrc r s).doff = s.doff := rfl
@[simp] theorem compareCrc_dlen : (compareCrc r s).dlen = s.dlen := rfl
@[simp] theorem compareCrc_cmdIn : (compareCrc r s).cmdIn = s.cmdIn := rfl
@[simp] theorem compareCrc_result : (compareCrc r s).result = s.result := rfl
@[simp] theorem compareCrc_cfg : (compareCrc r s).cfg = s.cfg := rfl
@[simp] theorem compareCrc_draws : (compareCrc r s).draws = s.draws := rfl

end compareCrcFields

section classifyFields
variable (raw : Byte) (s : State)

@[simp] theorem classify_acc : (classify raw s).acc = s.acc := rfl
@[simp] theorem classify_txbuf : (classify raw s).txbuf = s.txbuf := rfl
@[simp] theorem classify_txlen : (classify raw s).txlen = s.txlen := rfl
@[simp] theorem classify_rxbuf : (classify raw s).rxbuf = s.rxbuf := rfl
@[simp] theorem classify_rxlen : (classify raw s).rxlen = s.rxlen := rfl
@[simp] theorem classify_status : (classify raw s).status = s.status := rfl
@[simp] theorem classify_ctxv : (classify raw s).ctxv = s.ctxv := rfl
@[simp] theorem classify_crcok : (classify raw s).crcok = s.crcok := rfl
@[simp] theorem classify_reqAddr : (classify raw s).reqAddr = s.reqAddr := rfl
@[simp] theorem classify_reqFunc : (classify raw s).reqFunc = s.reqFunc := rfl
@[simp] theorem classify_reqStart : (classify raw s).reqStart = s.reqStart := rfl
@[simp] theorem classify_reqBc : (classify raw s).reqBc = s.reqBc := rfl
@[simp] theorem classify_explen : (classify raw s).explen = s.explen := rfl
@[simp] theorem classify_exc : (classify raw s).exc = raw := rfl
@[simp] theorem classify_excm : (classify raw s).excm = memberId (excMember s.cfg.excMap raw) := rfl
@[simp] theorem classify_doff : (classify raw s).doff = s.doff := rfl
@[simp] theorem classify_dlen : (classify raw s).dlen = s.dlen := rfl
@[simp] theorem classify_cmdIn : (classify raw s).cmdIn = s.cmdIn := rfl
@[simp] theorem classify_result : (classify raw s).result = s.result := rfl
@[simp] theorem classify_cfg : (classify raw s).cfg = s.cfg := rfl
@[simp] theorem classify_draws : (classify raw s).draws = s.draws := rfl

end classifyFields

section latchRequestFields
variable (k : RequestKind) (addr : Byte) (start : Word) (bc : Byte) (f : List Byte) (s : State)

@[simp] theorem latchRequest_acc : (latchRequest k addr start bc f s).acc = frameCrc f := rfl
@[simp] theorem latchRequest_txbuf : (latchRequest k addr start bc f s).txbuf = Memory.writeFrom s.txbuf 0 f := rfl
@[simp] theorem latchRequest_txlen : (latchRequest k addr start bc f s).txlen = BitVec.ofNat 8 f.length := rfl
@[simp] theorem latchRequest_rxbuf : (latchRequest k addr start bc f s).rxbuf = s.rxbuf := rfl
@[simp] theorem latchRequest_rxlen : (latchRequest k addr start bc f s).rxlen = s.rxlen := rfl
@[simp] theorem latchRequest_status : (latchRequest k addr start bc f s).status = stBuilt := rfl
@[simp] theorem latchRequest_ctxv : (latchRequest k addr start bc f s).ctxv = true := rfl
@[simp] theorem latchRequest_crcok : (latchRequest k addr start bc f s).crcok = s.crcok := rfl
@[simp] theorem latchRequest_reqAddr : (latchRequest k addr start bc f s).reqAddr = addr := rfl
@[simp] theorem latchRequest_reqFunc : (latchRequest k addr start bc f s).reqFunc = functionCode k := rfl
@[simp] theorem latchRequest_reqStart : (latchRequest k addr start bc f s).reqStart = start := rfl
@[simp] theorem latchRequest_reqBc : (latchRequest k addr start bc f s).reqBc = bc := rfl
@[simp] theorem latchRequest_explen : (latchRequest k addr start bc f s).explen = expectedLength k bc := rfl
@[simp] theorem latchRequest_exc : (latchRequest k addr start bc f s).exc = 0 := rfl
@[simp] theorem latchRequest_excm : (latchRequest k addr start bc f s).excm = 0 := rfl
@[simp] theorem latchRequest_doff : (latchRequest k addr start bc f s).doff = 0 := rfl
@[simp] theorem latchRequest_dlen : (latchRequest k addr start bc f s).dlen = 0 := rfl
@[simp] theorem latchRequest_cmdIn : (latchRequest k addr start bc f s).cmdIn = s.cmdIn := rfl
@[simp] theorem latchRequest_result : (latchRequest k addr start bc f s).result = s.result := rfl
@[simp] theorem latchRequest_cfg : (latchRequest k addr start bc f s).cfg = s.cfg := rfl
@[simp] theorem latchRequest_draws : (latchRequest k addr start bc f s).draws = s.draws := rfl

end latchRequestFields

end Sys2Proof.Machine
end

