-- ==== Sys2Proof/Laws/Buffers.lean ====
section
/-! SUPPORT. Laws of the buffer and status operations: everything each of them can answer. -/

namespace Sys2Proof.Machine

/-- Everything RX.PUSH can answer (42_buffers.md R162). -/
theorem execRxPush_cases {b : Byte} {s t : State} (h : execRxPush b s = .next t) :
    s.rxlen.toNat < 255 ∧
      t = { clearView s with rxbuf := Memory.write s.rxbuf (pushAddress s) b, rxlen := s.rxlen + 1 } := by
  unfold execRxPush at h
  split at h
  · cases h
  · rename_i hne
    refine ⟨?_, by cases h; rfl⟩
    have : s.rxlen.toNat ≠ 255 := fun e => hne (BitVec.eq_of_toNat_eq e)
    omega

/-- RX.PUSH below the capacity completes (42_buffers.md R162). -/
theorem execRxPush_of_lt {b : Byte} {s : State} (h : s.rxlen.toNat < 255) :
    execRxPush b s =
      .next { clearView s with rxbuf := Memory.write s.rxbuf (pushAddress s) b, rxlen := s.rxlen + 1 } := by
  rw [execRxPush, if_neg]
  rintro e
  rw [e] at h
  exact absurd h (by decide)

/-- RXLEN after a push. -/
theorem toNat_rxlen_succ {s : State} (h : s.rxlen.toNat < 255) : (s.rxlen + 1).toNat = s.rxlen.toNat + 1 := by
  rw [BitVec.toNat_add]
  change (s.rxlen.toNat + 1) % 256 = _
  omega

/-- A push appends one byte to the valid response (42_buffers.md R162). -/
theorem readRange_push {m : Memory} (hm : Memory.wf m) (k : Nat) (b : Byte) :
    Memory.readRange (Memory.write m k b) 0 (k + 1) = Memory.readRange m 0 k ++ [b] := by
  rw [Memory.readRange_succ, Nat.zero_add, Memory.read_write hm, if_pos rfl]
  congr 1
  apply Memory.readRange_congr
  intro j _ hj
  rw [Memory.read_write hm, if_neg (by omega)]

/-- Everything TX.RD can answer (42_buffers.md R163). -/
theorem execTxRd_eq (i : Byte) (s : State) :
    execTxRd i s = .next (if i.toNat < s.txlen.toNat then out (byteAt (txFrame s) i.toNat) s
      else { s with status := 0x32 }) := by
  unfold execTxRd txOperand
  by_cases h : s.txlen.toNat ≤ i.toNat
  · rw [if_pos h, if_neg (by omega)]
    rfl
  · rw [if_neg h, if_pos (by omega), byteAt_txFrame (by omega)]

/-- Everything RES.RD can answer (42_buffers.md R164). -/
theorem execResRd_eq (i : Byte) (s : State) :
    execResRd i s =
      if s.dlen.toNat ≤ i.toNat then .next { s with status := 0x32 }
      else if s.rxlen.toNat ≤ s.doff.toNat + i.toNat then .fault .readPastValid
      else .next (out (byteAt (rxFrame s) (s.doff.toNat + i.toNat)) s) := by
  unfold execResRd resAddress
  split
  · rfl
  split
  · rfl
  · rw [byteAt_rxFrame (by omega)]

/-- The numbers that name no status register (10_state.md R36). -/
theorem statusRegister_eq_none_iff (s : State) (n : Nat) : statusRegister s n = none ↔ 0x0F < n := by
  constructor
  · intro h
    by_contra hn
    have : n < 16 := by omega
    interval_cases n <;> simp [statusRegister] at h
  · intro h
    unfold statusRegister
    split <;> first | rfl | omega

/-- Everything STAT.RD can answer (42_buffers.md R165). -/
theorem execStatRd_cases {n : Byte} {s t : State} (h : execStatRd n s = .next t) :
    (statusRegister s n.toNat = none ∧ t = { s with status := 0x32 }) ∨
    (s.ctxv = false ∧ isContextRegister n.toNat = true ∧ t = drawOut s) ∨
    ((s.ctxv = true ∨ isContextRegister n.toNat = false) ∧
      ∃ v, statusRegister s n.toNat = some v ∧ t = out v s) := by
  unfold execStatRd at h
  split at h
  · rename_i hn
    exact .inl ⟨hn, by cases h; rfl⟩
  · rename_i v hv
    split at h
    · rename_i hc
      simp only [Bool.and_eq_true, Bool.not_eq_true'] at hc
      exact .inr (.inl ⟨hc.2, hc.1, by cases h; rfl⟩)
    · rename_i hc
      refine .inr (.inr ⟨?_, v, hv, by cases h; rfl⟩)
      cases h1 : s.ctxv
      · cases h2 : isContextRegister n.toNat
        · exact .inr rfl
        · simp [h1, h2] at hc
      · exact .inl rfl

/-- STAT.RD always completes: every number names a register or raises. -/
theorem execStatRd_next (n : Byte) (s : State) : ∃ t, execStatRd n s = .next t := by
  unfold execStatRd
  split
  · exact ⟨_, rfl⟩
  · exact ⟨_, rfl⟩

end Sys2Proof.Machine
end

