-- ==== Sys2Proof/Laws/Crc.lean ====
section
/-! SUPPORT. Laws of the CRC functions and of the field assembly: splitting and joining, linearity, and the trailer. -/

namespace Sys2Proof

@[simp] theorem be16_beHi_beLo (v : Word) : be16 (beHi v) (beLo v) = v := by
  apply BitVec.eq_of_getLsbD_eq
  intro i hi
  simp only [be16, beHi, beLo, BitVec.getLsbD_append, BitVec.getLsbD_extractLsb']
  split
  · simp_all
  · have : i - 8 < 8 := by omega
    have h2 : 8 + (i - 8) = i := by omega
    simp [this, h2]

@[simp] theorem beHi_be16 (hi lo : Byte) : beHi (be16 hi lo) = hi := by
  apply BitVec.eq_of_getLsbD_eq
  intro i h
  simp only [be16, beHi, BitVec.getLsbD_extractLsb', BitVec.getLsbD_append]
  simp [h]

@[simp] theorem beLo_be16 (hi lo : Byte) : beLo (be16 hi lo) = lo := by
  apply BitVec.eq_of_getLsbD_eq
  intro i h
  simp only [be16, beLo, BitVec.getLsbD_extractLsb', BitVec.getLsbD_append]
  simp [h]

end Sys2Proof

namespace Sys2Proof.Machine

/-- The CRC's bytes are the split of R88, in the other order of transmission. -/
theorem crcLo_eq_beLo (c : Word) : crcLo c = beLo c := rfl

theorem crcHi_eq_beHi (c : Word) : crcHi c = beHi c := rfl

/-- R131 (d): continuing over more bytes. -/
theorem crcFrom_append (a : Word) (bs cs : List Byte) : crcFrom a (bs ++ cs) = crcFrom (crcFrom a bs) cs :=
  List.foldl_append

@[simp] theorem crcFrom_nil (a : Word) : crcFrom a [] = a := rfl

@[simp] theorem crcFrom_cons (a : Word) (b : Byte) (bs : List Byte) :
    crcFrom a (b :: bs) = crcFrom (crcByte a b) bs := rfl

/-- One iteration is linear over XOR. -/
theorem crcShift_xor (a b : Word) : crcShift (a ^^^ b) = crcShift a ^^^ crcShift b := by
  unfold crcShift
  rw [BitVec.getLsbD_xor, BitVec.ushiftRight_xor_distrib]
  generalize a >>> 1 = x
  generalize b >>> 1 = y
  cases a.getLsbD 0 <;> cases b.getLsbD 0 <;> simp
  · ac_rfl
  · ac_rfl
  · rw [show x ^^^ crcPoly ^^^ (y ^^^ crcPoly) = x ^^^ y ^^^ (crcPoly ^^^ crcPoly) by ac_rfl, BitVec.xor_self,
      BitVec.xor_zero]

/-- `n` iterations are linear over XOR. -/
theorem crcShifts_xor (n : Nat) (a b : Word) : crcShifts n (a ^^^ b) = crcShifts n a ^^^ crcShifts n b := by
  induction n generalizing a b with
  | zero => rfl
  | succ n ih => simp only [crcShifts, crcShift_xor, ih]

/-- R131 (c). -/
theorem crcByte_xor (a a' : Word) (b b' : Byte) :
    crcByte (a ^^^ a') (b ^^^ b') = crcByte a b ^^^ crcByte a' b' := by
  unfold crcByte
  rw [← crcShifts_xor, BitVec.setWidth_xor]
  congr 1
  ac_rfl

@[simp] theorem length_withCrc (m : List Byte) : (withCrc m).length = m.length + 2 := by simp [withCrc]

@[simp] theorem frameBody_withCrc (m : List Byte) : frameBody (withCrc m) = m := by
  simp [frameBody, withCrc]

theorem byteAt_append_left {m n : List Byte} {i : Nat} (h : i < m.length) : byteAt (m ++ n) i = byteAt m i := by
  simp [byteAt, List.getD, List.getElem?_append_left h]

theorem byteAt_append_right {m n : List Byte} {i : Nat} (h : m.length ≤ i) :
    byteAt (m ++ n) i = byteAt n (i - m.length) := by
  simp [byteAt, List.getD, List.getElem?_append_right h]

theorem byteAt_withCrc_lo (m : List Byte) : byteAt (withCrc m) m.length = crcLo (crc16 m) := by
  rw [withCrc, byteAt_append_right (Nat.le_refl _), Nat.sub_self]
  rfl

theorem byteAt_withCrc_hi (m : List Byte) : byteAt (withCrc m) (m.length + 1) = crcHi (crc16 m) := by
  rw [withCrc, byteAt_append_right (by omega), Nat.add_sub_cancel_left]
  rfl

/-- R132, the round trip: a message with its CRC appended verifies. -/
@[simp] theorem crcOk_withCrc (m : List Byte) : crcOk (withCrc m) = true := by
  have h1 : m.length + 2 - 2 = m.length := by omega
  have h2 : m.length + 2 - 1 = m.length + 1 := by omega
  simp only [crcOk, frameBody_withCrc, length_withCrc, h1, h2, byteAt_withCrc_lo, byteAt_withCrc_hi, beq_self_eq_true,
    Bool.and_self]

/-- The CRC read back from the trailer is the CRC appended. -/
@[simp] theorem frameCrc_withCrc (m : List Byte) : frameCrc (withCrc m) = crc16 m := by
  have h1 : m.length + 2 - 2 = m.length := by omega
  have h2 : m.length + 2 - 1 = m.length + 1 := by omega
  rw [frameCrc, length_withCrc, h1, h2, byteAt_withCrc_lo, byteAt_withCrc_hi, crcLo_eq_beLo, crcHi_eq_beHi,
    be16_beHi_beLo]

end Sys2Proof.Machine
end

