-- ==== Sys2Proof/Laws/Build.lean ====
section
/-! SUPPORT. Laws of the request framer: the argument checks, the frames, and what a BUILD can answer. -/

namespace Sys2Proof.Machine

/-- Which arguments are accepted (41_build.md R141). -/
theorem argCheck_eq_none_iff (kind : RequestKind) (addr : Byte) (n : Nat) :
    argCheck kind addr n = none ↔
      (1 ≤ addr.toNat ∧ addr.toNat ≤ 247) ∧ n ≠ 0 ∧ n % 2 = 0 ∧ n ≤ maxBytes kind := by
  unfold argCheck
  split
  · simp only [reduceCtorEq, false_iff]; omega
  split
  · simp only [reduceCtorEq, false_iff]; omega
  split
  · simp only [reduceCtorEq, false_iff]; omega
  split
  · simp only [reduceCtorEq, false_iff]; omega
  · simp only [true_iff]; omega

/-- The first check: the address (41_build.md R141). -/
theorem argCheck_address {kind : RequestKind} {addr : Byte} {n : Nat}
    (h : ¬ (1 ≤ addr.toNat ∧ addr.toNat ≤ 247)) : argCheck kind addr n = some .argAddress := by
  rw [argCheck, if_pos (by omega)]

/-- The second check: a count of zero. -/
theorem argCheck_empty {kind : RequestKind} {addr : Byte} {n : Nat} (h : 1 ≤ addr.toNat ∧ addr.toNat ≤ 247)
    (hn : n = 0) : argCheck kind addr n = some .argEmpty := by
  rw [argCheck, if_neg (by omega), if_pos hn]

/-- The third check: an odd count. -/
theorem argCheck_odd {kind : RequestKind} {addr : Byte} {n : Nat} (h : 1 ≤ addr.toNat ∧ addr.toNat ≤ 247)
    (hn : n % 2 = 1) : argCheck kind addr n = some .argOdd := by
  rw [argCheck, if_neg (by omega), if_neg (by omega), if_pos hn]

/-- The fourth check: a count above the bound. -/
theorem argCheck_tooLong {kind : RequestKind} {addr : Byte} {n : Nat} (h : 1 ≤ addr.toNat ∧ addr.toNat ≤ 247)
    (hn : n % 2 = 0) (hm : maxBytes kind < n) : argCheck kind addr n = some .argTooLong := by
  rw [argCheck, if_neg (by omega), if_neg (by omega), if_neg (by omega), if_pos hm]

/-- Only the four argument errors are reported (60_exceptions.md R233). -/
theorem argCheck_some_code {kind : RequestKind} {addr : Byte} {n : Nat} {c : Condition}
    (h : argCheck kind addr n = some c) : conditionCode c ∈ [0x10, 0x11, 0x12, 0x13] := by
  unfold argCheck at h
  split at h
  · cases h; decide
  split at h
  · cases h; decide
  split at h
  · cases h; decide
  split at h
  · cases h; decide
  · cases h

@[simp] theorem length_readRequest (addr : Byte) (start : Word) (bc : Byte) :
    (readRequest addr start bc).length = 8 := by simp [readRequest]

@[simp] theorem length_writeRequest (addr : Byte) (start : Word) (data : List Byte) :
    (writeRequest addr start data).length = 9 + data.length := by
  simp only [writeRequest, length_withCrc, List.length_append, List.length_cons, List.length_nil]
  omega

/-- The high byte of a register count is 0 in every frame the block builds (30_encoding.md R89). -/
theorem beHi_registerCount {n : Nat} (h : n ≤ 255) : beHi (registerCount n) = 0x00 := by
  apply BitVec.eq_of_toNat_eq
  simp only [beHi, registerCount, BitVec.extractLsb'_toNat, BitVec.toNat_ofNat, Nat.shiftRight_eq_div_pow]
  change _ = 0
  omega

/-- The low byte of a register count holds all of it (30_encoding.md R89). -/
theorem beLo_registerCount (n : Nat) : beLo (registerCount n) = BitVec.ofNat 8 (n / 2) := by
  apply BitVec.eq_of_toNat_eq
  simp only [beLo, registerCount, BitVec.extractLsb'_toNat, BitVec.toNat_ofNat, Nat.shiftRight_zero]
  omega

/-- What a latched frame does to TXBUF: the frame is the valid part, every byte past it is as before. -/
theorem txFrame_latchRequest {kind : RequestKind} {addr : Byte} {start : Word} {bc : Byte} {frame : List Byte}
    {s : State} (h : Memory.wf s.txbuf) (hl : frame.length ≤ 255) :
    txFrame (latchRequest kind addr start bc frame s) = frame := by
  have ht : (BitVec.ofNat 8 frame.length).toNat = frame.length := by rw [BitVec.toNat_ofNat]; omega
  simp only [txFrame, latchRequest_txbuf, latchRequest_txlen, ht]
  exact Memory.readRange_writeFrom h hl

theorem read_latchRequest {kind : RequestKind} {addr : Byte} {start : Word} {bc : Byte} {frame : List Byte}
    {s : State} (h : Memory.wf s.txbuf) (hl : frame.length ≤ 255) {a : Nat} (ha : frame.length ≤ a) :
    Memory.read (latchRequest kind addr start bc frame s).txbuf a = Memory.read s.txbuf a := by
  rw [latchRequest_txbuf, Memory.read_writeFrom h (by rw [Nat.zero_add]; exact hl), if_neg (by omega)]

theorem wf_latchRequest {kind : RequestKind} {addr : Byte} {start : Word} {bc : Byte} {frame : List Byte}
    {s : State} (h : Memory.wf s.txbuf) (hl : frame.length ≤ 255) :
    Memory.wf (latchRequest kind addr start bc frame s).txbuf :=
  Memory.wf_writeFrom h (by rw [Nat.zero_add]; exact hl)

/-- Everything BUILD.RD can answer (41_build.md R144). -/
theorem execBuildRd_cases {addr : Byte} {start : Word} {bc : Byte} {s t : State}
    (h : execBuildRd addr start bc s = .next t) :
    (∃ c, argCheck .read addr bc.toNat = some c ∧
      t = { dropContext { clearResult s with txlen := 0 } with status := conditionCode c }) ∨
    (argCheck .read addr bc.toNat = none ∧
      t = latchRequest .read addr start bc (readRequest addr start bc) s) := by
  unfold execBuildRd at h
  split at h
  · rename_i c hc
    exact .inl ⟨c, hc, by cases h; rfl⟩
  · rename_i hc
    exact .inr ⟨hc, by cases h; rfl⟩

/-- Everything BUILD.WR can answer (41_build.md R150). -/
theorem execBuildWr_cases {addr : Byte} {start : Word} {data : List Byte} {s t : State}
    (h : execBuildWr addr start data s = .next t) :
    (∃ c, argCheck .write addr data.length = some c ∧
      t = { dropContext { clearResult s with txlen := 0 } with status := conditionCode c }) ∨
    (argCheck .write addr data.length = none ∧
      t = latchRequest .write addr start (BitVec.ofNat 8 data.length) (writeRequest addr start data) s) := by
  unfold execBuildWr at h
  split at h
  · rename_i c hc
    exact .inl ⟨c, hc, by cases h; rfl⟩
  · rename_i hc
    exact .inr ⟨hc, by cases h; rfl⟩

theorem execBuildRd_of_none {addr : Byte} {start : Word} {bc : Byte} {s : State}
    (h : argCheck .read addr bc.toNat = none) :
    execBuildRd addr start bc s = .next (latchRequest .read addr start bc (readRequest addr start bc) s) := by
  rw [execBuildRd, h]

theorem execBuildRd_of_some {addr : Byte} {start : Word} {bc : Byte} {s : State} {c : Condition}
    (h : argCheck .read addr bc.toNat = some c) :
    execBuildRd addr start bc s =
      .next { dropContext { clearResult s with txlen := 0 } with status := conditionCode c } := by
  rw [execBuildRd, h]; rfl

theorem execBuildWr_of_none {addr : Byte} {start : Word} {data : List Byte} {s : State}
    (h : argCheck .write addr data.length = none) :
    execBuildWr addr start data s =
      .next (latchRequest .write addr start (BitVec.ofNat 8 data.length) (writeRequest addr start data) s) := by
  rw [execBuildWr, h]

theorem execBuildWr_of_some {addr : Byte} {start : Word} {data : List Byte} {s : State} {c : Condition}
    (h : argCheck .write addr data.length = some c) :
    execBuildWr addr start data s =
      .next { dropContext { clearResult s with txlen := 0 } with status := conditionCode c } := by
  rw [execBuildWr, h]; rfl

end Sys2Proof.Machine
end

