-- ==== Sys2Proof/Laws/Check.lean ====
section
/-! SUPPORT. Laws of the validators: what each outcome implies, and everything CHECK can answer. -/

namespace Sys2Proof.Machine

/-- The CRC comparison in terms of the trailing two bytes (43_check.md R182). -/
theorem crcOk_eq_true_iff (r : List Byte) :
    crcOk r = true ↔ crcLo (crc16 (r.take (r.length - 2))) = byteAt r (r.length - 2) ∧
      crcHi (crc16 (r.take (r.length - 2))) = byteAt r (r.length - 1) := by
  simp [crcOk, frameBody]

/-- Bit 7 of a byte, as a bound (43_check.md R175). -/
theorem bit7_iff (b : Byte) : b.getLsbD 7 = true ↔ 0x80 ≤ b.toNat := by
  revert b
  decide +kernel

/-- The conditions CHECK can report, but for the missing context (60_exceptions.md R232). -/
def checkCodes : List Byte := [0x20, 0x21, 0x22, 0x23, 0x24, 0x25, 0x26]

/-- Every outcome of the read validator (43_check.md R176). -/
theorem checkRead_cases (ctx : RequestContext) (r : List Byte) :
    (∃ c, checkRead ctx r = .err c ∧ conditionCode c ∈ checkCodes) ∨
    (checkRead ctx r = .devExc (byteAt r 2)) ∨
    (checkRead ctx r = .success 3 ctx.bc ∧ r.length = 5 + ctx.bc.toNat ∧ crcOk r = true) := by
  unfold checkRead
  split
  · exact .inl ⟨_, rfl, by decide⟩
  split
  · exact .inl ⟨_, rfl, by decide⟩
  split
  · exact .inr (.inl rfl)
  split
  · exact .inl ⟨_, rfl, by decide⟩
  split
  · exact .inl ⟨_, rfl, by decide⟩
  split
  · exact .inl ⟨_, rfl, by decide⟩
  split
  · exact .inl ⟨_, rfl, by decide⟩
  · rename_i h1 h2
    exact .inr (.inr ⟨rfl, by omega, by simpa using h2⟩)

/-- Every outcome of the write validator (43_check.md R180). -/
theorem checkWrite_cases (minLength : Nat) (ctx : RequestContext) (r : List Byte) :
    (∃ c, checkWrite minLength ctx r = .err c ∧ conditionCode c ∈ checkCodes) ∨
    (checkWrite minLength ctx r = .devExc (byteAt r 2)) ∨
    (checkWrite minLength ctx r = .success 2 4 ∧ 8 ≤ r.length ∧ crcOk r = true) := by
  unfold checkWrite
  split
  · exact .inl ⟨_, rfl, by decide⟩
  split
  · exact .inl ⟨_, rfl, by decide⟩
  split
  · exact .inr (.inl rfl)
  split
  · exact .inl ⟨_, rfl, by decide⟩
  split
  · exact .inl ⟨_, rfl, by decide⟩
  split
  · exact .inl ⟨_, rfl, by decide⟩
  split
  · exact .inl ⟨_, rfl, by decide⟩
  · rename_i h1 h2 _
    exact .inr (.inr ⟨rfl, by omega, by simpa using h2⟩)

/-- Every outcome of the validator that REQ_FUNC selects (43_check.md R171). -/
theorem judge_cases (minLength : Nat) (s : State) :
    (∃ c, judge minLength s = .err c ∧ conditionCode c ∈ checkCodes) ∨
    (judge minLength s = .devExc (byteAt (rxFrame s) 2)) ∨
    (s.reqFunc = 0x04 ∧ judge minLength s = .success 3 s.reqBc ∧ s.rxlen.toNat = 5 + s.reqBc.toNat ∧
      crcOk (rxFrame s) = true) ∨
    (s.reqFunc ≠ 0x04 ∧ judge minLength s = .success 2 4 ∧ 8 ≤ s.rxlen.toNat ∧ crcOk (rxFrame s) = true) := by
  unfold judge
  split
  · rename_i hf
    rcases checkRead_cases (requestContext s) (rxFrame s) with h | h | ⟨h1, h2, h3⟩
    · exact .inl h
    · exact .inr (.inl h)
    · rw [length_rxFrame] at h2
      exact .inr (.inr (.inl ⟨hf, h1, h2, h3⟩))
  · rename_i hf
    rcases checkWrite_cases minLength (requestContext s) (rxFrame s) with h | h | ⟨h1, h2, h3⟩
    · exact .inl h
    · exact .inr (.inl h)
    · rw [length_rxFrame] at h2
      exact .inr (.inr (.inr ⟨hf, h1, h2, h3⟩))

/-- The read validator on a state (43_check.md R176), its stages over the registers. -/
theorem judge_read {s : State} (h : s.reqFunc = 0x04) (minLength : Nat) :
    judge minLength s =
      if s.rxlen.toNat < 5 then .err .respShort
      else if byteAt (rxFrame s) 0 ≠ s.reqAddr then .err .addrMismatch
      else if 0x80 ≤ (byteAt (rxFrame s) 1).toNat then .devExc (byteAt (rxFrame s) 2)
      else if byteAt (rxFrame s) 1 ≠ 0x04 then .err .function
      else if byteAt (rxFrame s) 2 ≠ s.reqBc then .err .byteCount
      else if s.rxlen.toNat ≠ 5 + s.reqBc.toNat then .err .length
      else if crcOk (rxFrame s) = false then .err .crc
      else .success 3 s.reqBc := by
  rw [judge, if_pos h]
  simp only [← bit7_iff, ← length_rxFrame]
  rfl

/-- The write validator on a state (43_check.md R180), its stages over the registers. -/
theorem judge_write {s : State} (h : s.reqFunc ≠ 0x04) (minLength : Nat) :
    judge minLength s =
      if s.rxlen.toNat < minLength then .err .respShort
      else if byteAt (rxFrame s) 0 ≠ s.reqAddr then .err .addrMismatch
      else if 0x80 ≤ (byteAt (rxFrame s) 1).toNat then .devExc (byteAt (rxFrame s) 2)
      else if byteAt (rxFrame s) 1 ≠ 0x10 then .err .function
      else if s.rxlen.toNat < 8 then .err .length
      else if crcOk (rxFrame s) = false then .err .crc
      else if byteAt (rxFrame s) 2 ++ byteAt (rxFrame s) 3 ≠ s.reqStart then .err .echo
      else .success 2 4 := by
  rw [judge, if_neg h]
  simp only [← bit7_iff, ← length_rxFrame]
  rfl

/-- The verdict is a function of the context and the valid response (43_check.md R186). -/
theorem judge_congr {minLength : Nat} {s t : State} (ha : s.reqAddr = t.reqAddr) (hf : s.reqFunc = t.reqFunc)
    (hs : s.reqStart = t.reqStart) (hb : s.reqBc = t.reqBc) (hr : rxFrame s = rxFrame t) :
    judge minLength s = judge minLength t := by
  unfold judge requestContext checkRead checkWrite
  simp only [ha, hf, hs, hb, hr]

/-- CHECK with no request (43_check.md R171). -/
theorem checkWith_of_no_context {minLength : Nat} {s : State} (h : s.ctxv = false) :
    checkWith minLength s = .next { clearResult s with status := 0x30 } := by
  rw [checkWith, h]
  rfl

/-- Everything CHECK can answer with a request latched (43_check.md R171): a validator's outcome, reported over the
state in which the CRC comparison has been made if S6 was reached. -/
theorem checkWith_of_context {minLength : Nat} {s : State} (h : s.ctxv = true) :
    checkWith minLength s = report (judge minLength s)
      (if reachedCrcStage (judge minLength s) then compareCrc (rxFrame s) (clearResult s) else clearResult s) := by
  rw [checkWith, if_pos h]

/-- A condition before S6: only STATUS and the result registers are written (43_check.md R171). -/
theorem checkWith_of_early {minLength : Nat} {s : State} {c : Condition} (h : s.ctxv = true)
    (hj : judge minLength s = .err c) (hr : reachedCrcStage (.err c) = false) :
    checkWith minLength s = .next { clearResult s with status := conditionCode c } := by
  rw [checkWith_of_context h, hj, hr]
  rfl

/-- A condition at or after S6: the CRC comparison has been made (43_check.md R182). -/
theorem checkWith_of_late {minLength : Nat} {s : State} {c : Condition} (h : s.ctxv = true)
    (hj : judge minLength s = .err c) (hr : reachedCrcStage (.err c) = true) :
    checkWith minLength s =
      .next { compareCrc (rxFrame s) (clearResult s) with status := conditionCode c } := by
  rw [checkWith_of_context h, hj, hr]
  rfl

/-- A device exception (43_check.md R175). -/
theorem checkWith_of_devExc {minLength : Nat} {s : State} {raw : Byte} (h : s.ctxv = true)
    (hj : judge minLength s = .devExc raw) :
    checkWith minLength s = .next { classify raw (clearResult s) with status := 0x03 } := by
  rw [checkWith_of_context h, hj]
  rfl

/-- A success (43_check.md R184, R185). -/
theorem checkWith_of_success {minLength : Nat} {s : State} {off len : Byte} (h : s.ctxv = true)
    (hj : judge minLength s = .success off len) :
    checkWith minLength s =
      .next { compareCrc (rxFrame s) (clearResult s) with doff := off, dlen := len, status := 0x02 } := by
  rw [checkWith_of_context h, hj]
  rfl

/-- Everything CHECK can answer (43_check.md R171). -/
theorem checkWith_cases {minLength : Nat} {s t : State} (h : checkWith minLength s = .next t) :
    (s.ctxv = false ∧ t = { clearResult s with status := 0x30 }) ∨
    (s.ctxv = true ∧
      ((∃ c, judge minLength s = .err c ∧ reachedCrcStage (.err c) = false ∧ conditionCode c ∈ checkCodes ∧
          t = { clearResult s with status := conditionCode c }) ∨
        (∃ c, judge minLength s = .err c ∧ reachedCrcStage (.err c) = true ∧ conditionCode c ∈ checkCodes ∧
          t = { compareCrc (rxFrame s) (clearResult s) with status := conditionCode c }) ∨
        (judge minLength s = .devExc (byteAt (rxFrame s) 2) ∧
          t = { classify (byteAt (rxFrame s) 2) (clearResult s) with status := 0x03 }) ∨
        (∃ off len, judge minLength s = .success off len ∧ crcOk (rxFrame s) = true ∧
          (s.reqFunc = 0x04 ∧ off = 3 ∧ len = s.reqBc ∧ s.rxlen.toNat = 5 + s.reqBc.toNat ∨
            s.reqFunc ≠ 0x04 ∧ off = 2 ∧ len = 4 ∧ 8 ≤ s.rxlen.toNat) ∧
          t = { compareCrc (rxFrame s) (clearResult s) with doff := off, dlen := len, status := 0x02 }))) := by
  cases hc : s.ctxv
  · rw [checkWith_of_no_context hc] at h
    exact .inl ⟨rfl, by cases h; rfl⟩
  · refine .inr ⟨rfl, ?_⟩
    rcases judge_cases minLength s with ⟨c, hj, hm⟩ | hj | ⟨hf, hj, hl, hk⟩ | ⟨hf, hj, hl, hk⟩
    · cases hr : reachedCrcStage (.err c)
      · rw [checkWith_of_early hc hj hr] at h
        exact .inl ⟨c, hj, hr, hm, by cases h; rfl⟩
      · rw [checkWith_of_late hc hj hr] at h
        exact .inr (.inl ⟨c, hj, hr, hm, by cases h; rfl⟩)
    · rw [checkWith_of_devExc hc hj] at h
      exact .inr (.inr (.inl ⟨hj, by cases h; rfl⟩))
    · rw [checkWith_of_success hc hj] at h
      exact .inr (.inr (.inr ⟨_, _, hj, hk, .inl ⟨hf, rfl, rfl, hl⟩, by cases h; rfl⟩))
    · rw [checkWith_of_success hc hj] at h
      exact .inr (.inr (.inr ⟨_, _, hj, hk, .inr ⟨hf, rfl, rfl, hl⟩, by cases h; rfl⟩))

/-- CHECK always completes. -/
theorem checkWith_next (minLength : Nat) (s : State) : ∃ t, checkWith minLength s = .next t := by
  cases h : s.ctxv
  · exact ⟨_, checkWith_of_no_context h⟩
  · rw [checkWith_of_context h]
    cases judge minLength s <;> exact ⟨_, rfl⟩

end Sys2Proof.Machine
end

