-- ==== Sys2Proof/Laws/PerInstr.lean ====
section
/-! SUPPORT. One lemma per operation: decoding its encoding gives it back (30_encoding.md R93 to R97). -/

namespace Sys2Proof.Laws.RoundTrip

/-- A well-formed operation is what its encoding decodes to, whatever bytes follow. -/
def Statement (i : Instr) : Prop := i.wf = true → ∀ rest, decode (encode i ++ rest) = .command i rest

theorem crcInit : Statement .crcInit := fun _ _ => rfl

theorem crcByte (b : Byte) : Statement (.crcByte b) := fun _ _ => rfl

theorem crcRd : Statement .crcRd := fun _ _ => rfl

theorem buildRd (addr : Byte) (start : Word) (bc : Byte) : Statement (.buildRd addr start bc) := by
  intro _ rest
  change Decoded.command (.buildRd addr (be16 (beHi start) (beLo start)) bc) rest = _
  rw [be16_beHi_beLo]

theorem crcVerify : Statement .crcVerify := fun _ _ => rfl

theorem buildWr (addr : Byte) (start : Word) (data : List Byte) : Statement (.buildWr addr start data) := by
  intro h rest
  have hn : (BitVec.ofNat 8 data.length).toNat = data.length := by
    simp only [Instr.wf, decide_eq_true_eq] at h
    rw [BitVec.toNat_ofNat]
    omega
  change (if (BitVec.ofNat 8 data.length).toNat ≤ (data ++ rest).length then
    Decoded.command (.buildWr addr (be16 (beHi start) (beLo start))
      ((data ++ rest).take (BitVec.ofNat 8 data.length).toNat)) ((data ++ rest).drop (BitVec.ofNat 8 data.length).toNat)
    else .incomplete) = _
  rw [hn, if_pos (by simp), be16_beHi_beLo, List.take_left, List.drop_left]

theorem rxClr : Statement .rxClr := fun _ _ => rfl

theorem rxPush (b : Byte) : Statement (.rxPush b) := fun _ _ => rfl

theorem txRd (i : Byte) : Statement (.txRd i) := fun _ _ => rfl

theorem resRd (i : Byte) : Statement (.resRd i) := fun _ _ => rfl

theorem check : Statement .check := fun _ _ => rfl

theorem excDec (b : Byte) : Statement (.excDec b) := fun _ _ => rfl

theorem statRd (n : Byte) : Statement (.statRd n) := fun _ _ => rfl

end Sys2Proof.Laws.RoundTrip
end

