-- ==== Sys2Proof/Laws/Pseudo.lean ====
section
/-! SUPPORT. Laws of runs of operations: what a run of pushes and of reads leaves, and how a transaction concludes. -/

namespace Sys2Proof.Machine

/-- A run of RX.PUSH that fits appends its bytes (42_buffers.md R162). -/
theorem runOps_rxPush (bs : List Byte) (s : State) (hw : Memory.wf s.rxbuf) (hl : s.rxlen.toNat + bs.length ≤ 255)
    (h1 : s.doff = 0) (h2 : s.dlen = 0) :
    ∃ t, runOps (bs.map .rxPush) s = .next t ∧ rxFrame t = rxFrame s ++ bs ∧ Memory.wf t.rxbuf ∧
      t = { s with rxbuf := t.rxbuf, rxlen := BitVec.ofNat 8 (s.rxlen.toNat + bs.length) } := by
  induction bs generalizing s with
  | nil => exact ⟨s, rfl, by simp, hw, by simp⟩
  | cons b bs ih =>
    simp only [List.length_cons] at hl
    have hx : s.rxlen.toNat < 255 := by omega
    obtain ⟨t, ht, hf, hw', he⟩ :=
      ih { clearView s with rxbuf := Memory.write s.rxbuf (pushAddress s) b, rxlen := s.rxlen + 1 }
        (Memory.wf_write hw (by simp [pushAddress, bufferCap]; omega) b)
        (by simp only [toNat_rxlen_succ hx]; omega) rfl rfl
    refine ⟨t, ?_, ?_, hw', ?_⟩
    · simp only [List.map_cons, runOps, exec, execRxPush_of_lt hx, andThen, ht]
    · rw [hf, rxFrame]
      simp only [toNat_rxlen_succ hx, pushAddress]
      rw [readRange_push hw]
      simp [rxFrame]
    · rw [he]
      simp only [toNat_rxlen_succ hx, clearView, List.length_cons]
      rw [show s.rxlen.toNat + 1 + bs.length = s.rxlen.toNat + (bs.length + 1) by omega, h1, h2]

/-- A run of TX.RD below TXLEN puts out those bytes of the frame and changes nothing else (42_buffers.md R163). -/
theorem runOps_txRd (l : List Nat) (s : State) (hl : ∀ k ∈ l, k < s.txlen.toNat) :
    runOps (l.map fun k => .txRd (BitVec.ofNat 8 k)) s =
      .next { s with result := s.result ++ l.map fun k => byteAt (txFrame s) k } := by
  induction l generalizing s with
  | nil => simp [runOps]
  | cons k l ih =>
    have hk := hl k (by simp)
    have hk' : (BitVec.ofNat 8 k).toNat = k := by rw [BitVec.toNat_ofNat]; have := s.txlen.isLt; omega
    simp only [List.map_cons, runOps, exec]
    rw [execTxRd_eq, if_pos (by rwa [hk']), hk']
    simp only [andThen]
    rw [ih (out (byteAt (txFrame s) k) s) fun j hj => hl j (by simp [hj])]
    simp [out, txFrame]

/-- A run of RES.RD below DLEN, with the view inside the response, puts out those bytes of it and changes nothing else
(42_buffers.md R164). -/
theorem runOps_resRd (l : List Nat) (s : State) (hv : s.doff.toNat + s.dlen.toNat ≤ s.rxlen.toNat)
    (hl : ∀ k ∈ l, k < s.dlen.toNat) :
    runOps (l.map fun k => .resRd (BitVec.ofNat 8 k)) s =
      .next { s with result := s.result ++ l.map fun k => byteAt (rxFrame s) (s.doff.toNat + k) } := by
  induction l generalizing s with
  | nil => simp [runOps]
  | cons k l ih =>
    have hk := hl k (by simp)
    have hk' : (BitVec.ofNat 8 k).toNat = k := by rw [BitVec.toNat_ofNat]; have := s.dlen.isLt; omega
    simp only [List.map_cons, runOps, exec]
    rw [execResRd_eq, if_neg (by rw [hk']; omega), if_neg (by rw [hk']; omega), hk']
    simp only [andThen]
    rw [ih (out (byteAt (rxFrame s) (s.doff.toNat + k)) s) hv fun j hj => hl j (by simp [hj])]
    simp [out, rxFrame]

/-- The bytes of a sequence at consecutive indices. -/
theorem map_byteAt_range (r : List Byte) (o n : Nat) (h : o + n ≤ r.length) :
    ((List.range n).map fun k => byteAt r (o + k)) = (r.drop o).take n := by
  apply List.ext_getElem
  · simp; omega
  · intro i h1 h2
    simp at h1
    simp [byteAt, List.getD, List.getElem?_eq_getElem (show o + i < r.length by omega)]

/-- How a transaction concludes on a device exception (44_transaction.md R211). -/
theorem conclude_devExc {s : State} (h : s.status = stDevExc) :
    conclude s = .next (s, .deviceException s.exc s.excm) := by
  unfold conclude
  rw [if_neg (by rw [h]; decide), if_pos h]

/-- How a transaction concludes on any other outcome but success (44_transaction.md R211). -/
theorem conclude_failure {s : State} (h : s.status ≠ stSuccess) (h' : s.status ≠ stDevExc) :
    conclude s = .next (s, .protocolError s.status) := by
  unfold conclude
  rw [if_neg h, if_neg h']

end Sys2Proof.Machine
end

