-- ==== Sys2Proof/Laws/Step.lean ====
section
/-! SUPPORT. Everything a step, and each remaining operation, can answer. -/

namespace Sys2Proof.Machine

/-- Everything a step can answer with a next state (30_encoding.md R95, R96). -/
theorem step_cases {s t : State} (h : step s = .next t) :
    (∃ i rest, decode s.cmdIn = .command i rest ∧ exec i (consumeTo rest s) = .next t) ∨
    (∃ op rest, decode s.cmdIn = .illegal op rest ∧ t = { consumeTo rest s with status := 0x31 }) ∨
    (decode s.cmdIn = .incomplete ∧ t = s) := by
  unfold step at h
  split at h
  · rename_i i rest hd
    exact .inl ⟨i, rest, hd, h⟩
  · rename_i op rest hd
    exact .inr (.inl ⟨op, rest, hd, by cases h; rfl⟩)
  · rename_i hd
    exact .inr (.inr ⟨hd, by cases h; rfl⟩)

/-- Everything CRC.VERIFY can answer (40_crc.md R129). -/
theorem execCrcVerify_eq (s : State) :
    execCrcVerify s =
      .next (if s.rxlen.toNat < 2 then { s with crcok := false, status := 0x20 }
        else compareCrc (rxFrame s) s) := by
  unfold execCrcVerify
  split <;> rfl

/-- The only operations that can stop: RX.PUSH on a full buffer and, where DOFF + i lies past RXLEN, RES.RD. -/
theorem exec_next_or_stop (i : Instr) (s : State) :
    (∃ t, exec i s = .next t) ∨
    (∃ b, i = .rxPush b ∧ s.rxlen = 255 ∧ exec i s = .refused .rxBufferFull) ∨
    (∃ k, i = .resRd k ∧ k.toNat < s.dlen.toNat ∧ s.rxlen.toNat ≤ s.doff.toNat + k.toNat ∧
      exec i s = .fault .readPastValid) := by
  cases i with
  | crcInit => exact .inl ⟨_, rfl⟩
  | crcByte b => exact .inl ⟨_, rfl⟩
  | crcRd => exact .inl ⟨_, rfl⟩
  | buildRd addr start bc =>
    refine .inl ?_
    cases h : argCheck .read addr bc.toNat with
    | none => exact ⟨_, execBuildRd_of_none h⟩
    | some c => exact ⟨_, execBuildRd_of_some h⟩
  | crcVerify => exact .inl ⟨_, execCrcVerify_eq s⟩
  | buildWr addr start data =>
    refine .inl ?_
    cases h : argCheck .write addr data.length with
    | none => exact ⟨_, execBuildWr_of_none h⟩
    | some c => exact ⟨_, execBuildWr_of_some h⟩
  | rxClr => exact .inl ⟨_, rfl⟩
  | rxPush b =>
    by_cases h : s.rxlen = 255
    · exact .inr (.inl ⟨b, rfl, h, by rw [exec, execRxPush, if_pos h]⟩)
    · exact .inl ⟨_, by rw [exec, execRxPush, if_neg h]⟩
  | txRd k => exact .inl ⟨_, execTxRd_eq k s⟩
  | resRd k =>
    by_cases h : s.dlen.toNat ≤ k.toNat
    · exact .inl ⟨_, by rw [exec, execResRd_eq, if_pos h]⟩
    · by_cases h2 : s.rxlen.toNat ≤ s.doff.toNat + k.toNat
      · exact .inr (.inr ⟨k, rfl, by omega, h2, by rw [exec, execResRd_eq, if_neg h, if_pos h2]⟩)
      · exact .inl ⟨_, by rw [exec, execResRd_eq, if_neg h, if_neg h2]⟩
  | check => exact .inl (checkWith_next _ s)
  | excDec b => exact .inl ⟨_, rfl⟩
  | statRd n => exact .inl (execStatRd_next n s)

end Sys2Proof.Machine
end

