-- ==== Sys2Proof/Tests/Slice0.lean ====
section
/-! SUPPORT. Tests on fixed values, with results taken from 95_test_vectors.md (V and P numbers), and a witness for the
hypotheses of every statement that has some. -/

open Sys2Proof Sys2Proof.Machine

namespace Sys2Proof.Tests

set_option Elab.async false

/-! ### Small states -/

/-- What an operation that completes leaves, seen through `f`. -/
def seen {α : Type} (o : Result) (f : State → α) : Option α :=
  match o with
  | .next t => some (f t)
  | .fault _ => none
  | .refused _ => none

/-- An operation seen to leave a state answers that state. -/
theorem next_of_seen {o : Result} {t : State} (h : seen o id = some t) : o = .next t := by
  cases o with
  | next s => exact congrArg _ (Option.some.inj h)
  | fault r => cases h
  | refused r => cases h

/-- `s` with a response in RXBUF, as RX.LOAD leaves it. -/
def answered (r : List Byte) (s : State) : State :=
  { s with rxbuf := Memory.writeFrom [] 0 r, rxlen := BitVec.ofNat 8 r.length, doff := 0, dlen := 0 }

/-- What a row of 95_test_vectors.md §2.4 lists. -/
structure CheckRow where
  status : Byte
  excm : Byte
  doff : Byte
  dlen : Byte
  acc : Word
  crcok : Bool
  deriving DecidableEq, Repr

/-- CHECK of a response, as a row of 95_test_vectors.md §2.4. -/
def checkRow (s : State) (r : List Byte) : Option CheckRow :=
  seen (exec .check (answered r s)) fun t => ⟨t.status, t.excm, t.doff, t.dlen, t.acc, t.crcok⟩

/-- The state a completing operation leaves; `s` if it stops. -/
def after (i : Instr) (s : State) : State := (seen (exec i s) id).getD s

/-- Context R of 95_test_vectors.md §2.4: after `BUILD.RD 1, 0x0000, 4`. -/
def ctxR : State := after (.buildRd 0x01 0x0000 0x04) State.reset

/-- Context W of 95_test_vectors.md §2.4: after `BUILD.WR 1, 0x0010, [00 0A 01 02]`. -/
def ctxW : State := after (.buildWr 0x01 0x0010 [0x00, 0x0A, 0x01, 0x02]) State.reset

/-- Context W with `write_min_len` = 5. -/
def ctxW5 : State := { ctxW with cfg := { defaultConfig with writeMinLen := .five } }

/-- The response of V51. -/
def goodRead : List Byte := [0x01, 0x04, 0x04, 0x00, 0x0A, 0x01, 0x02, 0x5B, 0xD7]

/-- The response of V50. -/
def goodWrite : List Byte := [0x01, 0x10, 0x00, 0x10, 0x00, 0x02, 0x40, 0x0D]

/-- After the CHECK of V51. -/
def readDone : State := after .check (answered goodRead ctxR)

/-! ### WellFormed -/

theorem test_wf_refuses_long_payload : (Instr.buildWr 0x01 0x0000 (List.replicate 256 0x00)).wf = false := by decide +kernel

theorem test_wf_accepts_longest_payload : (Instr.buildWr 0x01 0x0000 (List.replicate 255 0x00)).wf = true := by decide +kernel

/-! ### Decoding: words written out from R93 and R94 -/

theorem test_decode_crcInit : decode [0b00000001, 0x03] = .command .crcInit [0x03] := by decide

theorem test_decode_crcByte : decode [0b00000010, 0x80] = .command (.crcByte 0x80) [] := by decide

theorem test_decode_crcRd : decode [0b00000011] = .command .crcRd [] := by decide

/-- V23: the start register is sent high byte first. -/
theorem test_decode_buildRd :
    decode [0b00000100, 0x11, 0x00, 0x6B, 0x06] = .command (.buildRd 0x11 0x006B 0x06) [] := by decide

theorem test_decode_crcVerify : decode [0b00000101] = .command .crcVerify [] := by decide

/-- V26. -/
theorem test_decode_buildWr :
    decode [0b00010000, 0x02, 0x01, 0x00, 0x02, 0x12, 0x34, 0x3F] =
      .command (.buildWr 0x02 0x0100 [0x12, 0x34]) [0x3F] := by decide

theorem test_decode_rxClr : decode [0b00100000] = .command .rxClr [] := by decide

theorem test_decode_rxPush : decode [0b00100001, 0xF2] = .command (.rxPush 0xF2) [] := by decide

theorem test_decode_txRd : decode [0b00100010, 0x0C] = .command (.txRd 0x0C) [] := by decide

theorem test_decode_resRd : decode [0b00100011, 0x03] = .command (.resRd 0x03) [] := by decide

theorem test_decode_check : decode [0b00110000] = .command .check [] := by decide

theorem test_decode_excDec : decode [0b00110001, 0x82] = .command (.excDec 0x82) [] := by decide

theorem test_decode_statRd : decode [0b00111111, 0x0E] = .command (.statRd 0x0E) [] := by decide

/-- V33, V41: the length byte of format W rules, whatever it says. -/
theorem test_decode_format_w_lengths :
    decode [0x10, 0x01, 0x00, 0x00, 0x00, 0x3F] = .command (.buildWr 0x01 0x0000 []) [0x3F] ∧
    decode [0x10, 0x01, 0x00, 0x10, 0x03, 0xAA, 0xBB, 0xCC, 0x3F] =
      .command (.buildWr 0x01 0x0010 [0xAA, 0xBB, 0xCC]) [0x3F] ∧
    decode [0x10, 0x01, 0x00, 0x10, 0x03, 0xAA, 0xBB] = .incomplete := by decide

/-- V70. -/
theorem test_decode_illegal : ∀ b ∈ ([0x00, 0xFF, 0x06, 0x11, 0x24, 0x32, 0x40] : List Byte),
    decode [b, 0x3F] = .illegal b [0x3F] := by decide

/-- BUILD.WR's row of spec/opcode_table.json gives its 5 fixed bytes: opcode in bits 7..0, byte count in bits 39..32.
The payload bytes above them are 0. -/
theorem test_decodeTableWord_buildWr :
    decodeTableWord 40 0x0210000110 = some (.buildWr 0x01 0x0010 [0x00, 0x00]) := by decide +kernel

theorem test_decodeTableWord_refuses : decodeTableWord 8 0x40 = none := by decide +kernel

theorem test_withFetchWord_runs :
    step (State.reset.withFetchWord 16 0x0102) = .next { State.reset with acc := 0x807E } :=
  next_of_seen (by decide +kernel)

/-! ### The CRC family -/

/-- V2, V5: the low bit is tested before the shift. -/
theorem test_crcShift : crcShift 0xFFFE = 0x7FFF ∧ crcShift 0xFFFF = 0xDFFE ∧ crcShift 0x0001 = 0xA001 ∧
    crcShift 0x8000 = 0x4000 := by decide

/-- V19. -/
theorem test_crcInit : seen (exec .crcInit { State.reset with acc := 0x1234 }) State.acc = some 0xFFFF := by decide

/-- V4: a zero byte still shifts eight times. -/
theorem test_crcByte_zero : seen (exec (.crcByte 0x00) { State.reset with acc := 0xE301 }) State.acc = some 0xC022 := by
  decide

/-- V14: CRC.BYTE continues from the reset value. -/
theorem test_crcByte_after_reset : seen (exec (.crcByte 0x01) State.reset) State.acc = some 0x807E := by decide

/-- V14, V8's check value split in wire order. -/
theorem test_crcRd : seen (exec .crcRd { State.reset with acc := 0x807E }) State.result = some [0x7E, 0x80] := by decide

/-- V15, V16. -/
theorem test_crcVerify_match :
    (seen (exec .crcVerify (answered goodWrite State.reset)) fun t => (t.acc, t.crcok, t.status)) =
      some (0x0D40, true, 0x00) ∧
    (seen (exec .crcVerify (answered [0x01, 0x10, 0x00, 0x10, 0x00, 0x02, 0x0D, 0x40] State.reset))
      fun t => (t.acc, t.crcok, t.status)) = some (0x0D40, false, 0x00) := by decide +kernel

/-- V17, V18. -/
theorem test_crcVerify_corners :
    (seen (exec .crcVerify (answered [0xFF, 0xFF] State.reset)) fun t => (t.acc, t.crcok)) = some (0xFFFF, true) ∧
    (seen (exec .crcVerify (answered [0xFF] { State.reset with crcok := true })) fun t => (t.acc, t.crcok, t.status)) =
      some (0xFFFF, false, 0x20) := by decide +kernel

/-! ### The request framer -/

/-- V24: both start bytes are not zero. -/
theorem test_buildRd_frame :
    (seen (exec (.buildRd 0x01 0x1234 0x02) State.reset) fun t => (txFrame t, t.explen, t.acc, t.status)) =
      some ([0x01, 0x04, 0x12, 0x34, 0x00, 0x01, 0x75, 0x7C], 0x07, 0x7C75, 0x01) := by decide +kernel

/-- V40, V35, V36, V39: a rejected request withdraws the frame; odd is tested before too long. -/
theorem test_buildRd_rejects :
    (seen (exec (.buildRd 0x00 0x0000 0x04) ctxR) fun t => (t.txlen, t.ctxv, t.acc, t.status)) =
      some (0, false, 0xCB71, 0x10) ∧
    seen (exec (.buildRd 0x01 0x0000 0xFB) State.reset) State.status = some 0x12 ∧
    seen (exec (.buildRd 0x01 0x0000 0xFC) State.reset) State.status = some 0x13 ∧
    seen (exec (.buildRd 0x00 0x0000 0xFB) State.reset) State.status = some 0x10 := by decide +kernel

/-- V20, the document's write request. -/
theorem test_buildWr_frame :
    (seen (exec (.buildWr 0x01 0x0010 [0x00, 0x0A, 0x01, 0x02]) State.reset)
      fun t => (txFrame t, t.explen, t.acc, t.status)) =
      some ([0x01, 0x10, 0x00, 0x10, 0x00, 0x02, 0x04, 0x00, 0x0A, 0x01, 0x02, 0x52, 0xF0], 0x08, 0xF052, 0x01) := by
  decide +kernel

/-- V31, V33, V37, V38. -/
theorem test_buildWr_rejects :
    seen (exec (.buildWr 0xF8 0x0000 [0x01, 0x02]) State.reset) State.status = some 0x10 ∧
    seen (exec (.buildWr 0x01 0x0000 []) State.reset) State.status = some 0x11 ∧
    seen (exec (.buildWr 0x01 0x0000 (List.replicate 247 0x00)) State.reset) State.status = some 0x12 ∧
    seen (exec (.buildWr 0x01 0x0000 (List.replicate 248 0x00)) State.reset) State.status = some 0x13 := by
  decide +kernel

/-! ### Buffer and status access -/

/-- V43. -/
theorem test_rxClr : (seen (exec .rxClr readDone) fun t => (t.rxlen, t.dlen)) = some (0, 0) := by decide +kernel

/-- V42, V71: a push appends and withdraws the view. -/
theorem test_rxPush :
    (seen (exec (.rxPush 0x02) (answered [0x01] State.reset)) fun t => (rxFrame t, t.rxlen)) =
      some ([0x01, 0x02], 2) ∧
    (seen (exec (.rxPush 0x00) readDone) fun t => (t.rxlen, t.dlen)) = some (10, 0) := by decide +kernel

/-- V72. -/
theorem test_rxPush_full :
    exec (.rxPush 0x00) { State.reset with rxlen := 255 } = .refused .rxBufferFull := rfl

/-- V47: the last byte of the frame, and one past it. -/
theorem test_txRd :
    seen (exec (.txRd 0x0C) ctxW) State.result = some [0xF0] ∧
    (seen (exec (.txRd 0x0D) ctxW) fun t => (t.result, t.status)) = some ([], 0x32) := by decide +kernel

/-- V46, with V51's data: the last byte of the data, and one past it. -/
theorem test_resRd :
    seen (exec (.resRd 0x03) readDone) State.result = some [0x02] ∧
    (seen (exec (.resRd 0x04) readDone) fun t => (t.result, t.status)) = some ([], 0x32) := by decide +kernel

/-- V44's order of the registers, on the state of program P4. -/
theorem test_statRd :
    ([0x00, 0x01, 0x04, 0x05, 0x06, 0x07, 0x09, 0x0C, 0x0D, 0x0E, 0x0F].map
      fun n => seen (exec (.statRd n) readDone) State.result) =
      [some [0x02], some [0x03], some [0x08], some [0x09], some [0x03], some [0x04], some [0x04], some [0x04],
        some [0x09], some [0x5B], some [0xD7]] := by decide +kernel

/-- V45. -/
theorem test_statRd_past_end :
    (seen (exec (.statRd 0x10) readDone) fun t => (t.result, t.status, t.dlen)) = some ([], 0x32, 4) := by
  decide +kernel

/-! ### CHECK and EXC.DEC -/

/-- V54, V60, V62, V76, V79, V81, V84, V51, in the order of the stages. -/
theorem test_check_read_stages :
    [checkRow ctxR [0x01, 0x04, 0x04, 0x00],
      checkRow ctxR [0x02, 0x04, 0x04, 0x00, 0x0A, 0x01, 0x02, 0x68, 0xD7],
      checkRow ctxR [0x01, 0x84, 0x02, 0xC2, 0xC1],
      checkRow ctxR [0x01, 0x03, 0x04, 0x00, 0x0A, 0x01, 0x02, 0x5A, 0x60],
      checkRow ctxR [0x01, 0x04, 0x02, 0x00, 0x0A, 0x01, 0x02, 0xD3, 0xD7],
      checkRow ctxR [0x01, 0x04, 0x04, 0x00, 0x0A, 0x01, 0x02, 0x00, 0x96, 0xFB],
      checkRow ctxR [0x01, 0x04, 0x04, 0x00, 0x0A, 0x01, 0x02, 0xD7, 0x5B],
      checkRow ctxR goodRead] =
    [some ⟨0x20, 0, 0, 0, 0xCB71, false⟩, some ⟨0x21, 0, 0, 0, 0xCB71, false⟩, some ⟨0x03, 2, 0, 0, 0xCB71, false⟩,
      some ⟨0x22, 0, 0, 0, 0xCB71, false⟩, some ⟨0x23, 0, 0, 0, 0xCB71, false⟩, some ⟨0x24, 0, 0, 0, 0xCB71, false⟩,
      some ⟨0x25, 0, 0, 0, 0xD75B, false⟩, some ⟨0x02, 0, 3, 4, 0xD75B, true⟩] := by decide +kernel

/-- V55, V77, V58, V85, V87, V86, V88, V89, and V57 for `write_min_len` = 5. -/
theorem test_check_write_stages :
    [checkRow ctxW [0x01, 0x10, 0x00, 0x10, 0x00, 0x02, 0x40],
      checkRow ctxW [0x01, 0x04, 0x00, 0x10, 0x00, 0x02, 0x70, 0x0E],
      checkRow ctxW5 [0x01, 0x10, 0x00, 0x10, 0x00],
      checkRow ctxW [0x01, 0x10, 0x00, 0x10, 0x00, 0x02, 0x40, 0x0C],
      checkRow ctxW [0x01, 0x10, 0x00, 0x11, 0x00, 0x02, 0x40, 0x0D],
      checkRow ctxW [0x01, 0x10, 0x00, 0x11, 0x00, 0x02, 0x11, 0xCD],
      checkRow ctxW [0x01, 0x10, 0x00, 0x10, 0x00, 0x03, 0x81, 0xCD],
      checkRow ctxW [0x01, 0x10, 0x00, 0x10, 0x00, 0x02, 0x00, 0x0C, 0xF0],
      checkRow ctxW5 [0x01, 0x90, 0x02, 0xCD, 0xC1]] =
    [some ⟨0x20, 0, 0, 0, 0xF052, false⟩, some ⟨0x22, 0, 0, 0, 0xF052, false⟩, some ⟨0x24, 0, 0, 0, 0xF052, false⟩,
      some ⟨0x25, 0, 0, 0, 0x0D40, false⟩, some ⟨0x25, 0, 0, 0, 0xCD11, false⟩, some ⟨0x26, 0, 0, 0, 0xCD11, true⟩,
      some ⟨0x02, 0, 2, 4, 0xCD81, true⟩, some ⟨0x02, 0, 2, 4, 0xF00C, true⟩,
      some ⟨0x03, 2, 0, 0, 0xF052, false⟩] := by decide +kernel

/-- The table under V93 to V95: `EXC.DEC` of 00 to 0F, and V94. -/
theorem test_excDec :
    ([0x00, 0x01, 0x02, 0x03, 0x04, 0x05, 0x06, 0x07, 0x08, 0x09, 0x0A, 0x0B, 0x0C, 0x0F, 0x82].map
      fun b => seen (exec (.excDec b) State.reset) State.result) =
      ([0x00, 0x01, 0x02, 0x03, 0x04, 0x05, 0x06, 0x07, 0x08, 0x0B, 0x09, 0x0A, 0x0B, 0x0B, 0x0B] : List Byte).map
        (fun m => some [m]) := by decide +kernel

/-! ### Buffers, transport, transactions -/

theorem test_memory_write_default_removes : Memory.write [(3, 0x07)] 3 0x00 = [] := by decide

theorem test_memory_write_keeps_order :
    Memory.write [(1, 0x05), (9, 0x06)] 4 0x07 = [(1, 0x05), (4, 0x07), (9, 0x06)] := by decide

/-- An open handle with a read-timeout of 100. -/
def port : Handle := { newHandle "port" 100 100 with isOpen := true, opened := 1 }

/-- What a call of `ReadExact` answers, if it is accepted. -/
def answerOf : Except TransportError (ReadAnswer × Handle) → Option ReadAnswer
  | .ok p => some p.1
  | .error _ => none

/-- E4: chunks before the deadline, and the third one after it. -/
theorem test_readExact_chunks :
    answerOf (readExact 8 [.bytes 10 [0x01, 0x10, 0x00], .bytes 30 [0x10, 0x00, 0x02], .bytes 60 [0x40, 0x0D]] port) =
      some (.bytes goodWrite) ∧
    answerOf (readExact 8 [.bytes 10 [0x01, 0x10, 0x00], .bytes 30 [0x10, 0x00, 0x02], .bytes 130 [0x40, 0x0D]] port) =
      some (.timeout [0x01, 0x10, 0x00, 0x10, 0x00, 0x02]) :=
  ⟨rfl, rfl⟩

/-- R205: what is pending and what the channel has ready, possibly nothing. -/
theorem test_readAvailable :
    readAvailable [0x02] (deliver [0x01] port) = .ok ([0x01, 0x02], port) ∧ readAvailable [] port = .ok ([], port) :=
  ⟨rfl, rfl⟩

/-- A transport that takes every write, and a device that sends the given bytes and stays silent. -/
def device (bs : List Byte) : Oracle where
  write := fun f => .written f.length
  readExact := fun n => if n ≤ bs.length then .bytes (bs.take n) else .timeout bs
  write_fits := fun _ => rfl
  readExact_fits := fun n => by
    split
    · exact List.length_take_of_le ‹_›
    · exact Nat.lt_of_not_le ‹_›

/-- A transport that is closed. -/
def closedPort : Oracle := handleOracle .done [] (newHandle "port" 100 100)

/-- The outcome of a transaction, and what it left on the result stream. -/
def xactSeen (o : XactResult) : Option (XactOutcome × List Byte) :=
  match o with
  | .next p => some (p.2, p.1.result)
  | .fault _ => none
  | .refused _ => none

/-- T1, the document's end-to-end scenario (E6): the frame, then the data. -/
theorem test_transaction_T1 :
    xactSeen (xactWrite (device goodWrite) 0x01 0x0010 [0x00, 0x0A, 0x01, 0x02] State.reset) =
      some (.success [0x00, 0x10, 0x00, 0x02],
        [0x01, 0x10, 0x00, 0x10, 0x00, 0x02, 0x04, 0x00, 0x0A, 0x01, 0x02, 0x52, 0xF0, 0x00, 0x10, 0x00, 0x02]) := by
  decide +kernel

/-- T9: stale bytes at the head of the answer. -/
theorem test_transaction_T9 :
    xactSeen (xactRead (device [0x01, 0x10, 0x00, 0x10, 0x00, 0x02, 0x40, 0x0D, 0x01]) 0x01 0x0000 0x04 State.reset) =
      some (.protocolError 0x22, [0x01, 0x04, 0x00, 0x00, 0x00, 0x02, 0x71, 0xCB]) := by decide +kernel

/-! ### Witnesses -/

theorem readDone_inv : readDone.Inv :=
  ⟨by decide +kernel, by decide +kernel, by decide +kernel, by decide +kernel, by decide +kernel, by decide +kernel,
    by decide +kernel, by decide +kernel, by decide +kernel⟩

theorem reset_inv : State.reset.Inv :=
  ⟨by decide, by decide, by decide, by decide, by decide, by decide, by decide, by decide, by decide⟩

theorem witness_EncodedCommandDecodesToItself :
    (Instr.buildWr 0xFF 0xFFFF (List.replicate 255 0xFF)).wf = true ∧ (Instr.statRd 0xFF).wf = true := by decide +kernel

theorem witness_DecodedCommandIsTheBytesConsumed :
    decode [0x10, 0xF7, 0xFF, 0xFF, 0x02, 0xFF, 0xFF] = .command (.buildWr 0xF7 0xFFFF [0xFF, 0xFF]) [] := by decide

theorem witness_CommandLengthFollowsFormat :
    (0x01 : Byte) ∈ ([0x01, 0x03, 0x05, 0x20, 0x30] : List Byte) ∧
    (0x3F : Byte) ∈ ([0x02, 0x21, 0x22, 0x23, 0x31, 0x3F] : List Byte) ∧
    ([] : List Byte).length = (0x00 : Byte).toNat ∧ (List.replicate 255 (0x00 : Byte)).length = (0xFF : Byte).toNat := by
  decide +kernel

theorem witness_IllegalOpcode :
    (∀ b ∈ ([0x00, 0x06, 0x0F, 0x11, 0x1F, 0x24, 0x2F, 0x32, 0x3E, 0x40, 0xFF] : List Byte), IllegalOpcode b) ∧
    (∀ o ∈ opcodes, ¬ IllegalOpcode (opcodeByte o)) := by decide

theorem witness_IllegalAndCutShortCommands :
    ({ State.reset with cmdIn := [0x40] } : State).cmdIn = (0x40 : Byte) :: [] ∧
    4 < (encode (.buildRd 0x01 0x0000 0x04)).length ∧
    ({ State.reset with cmdIn := [0x04, 0x01, 0x00, 0x00] } : State).cmdIn =
      (encode (.buildRd 0x01 0x0000 0x04)).take 4 ∧
    State.reset.cmdIn = (encode (.buildRd 0x01 0x0000 0x04)).take 0 := by decide

theorem witness_StepRunsTheDecodedCommand :
    decode ({ State.reset with cmdIn := [0x02, 0x01, 0x03] } : State).cmdIn = .command (.crcByte 0x01) [0x03] := by
  decide

theorem witness_CrcVerifyComparesTheTrailer :
    (answered [0xFF] State.reset).rxlen.toNat < 2 ∧ 2 ≤ (answered [0xFF, 0xFF] State.reset).rxlen.toNat := by decide

theorem witness_BuildChecksArgumentsInOrder :
    (¬ AddressOk 0x00 ∧ ¬ AddressOk 0xF8 ∧ AddressOk 0x01 ∧ AddressOk 0xF7) ∧
    ((0x00 : Byte).toNat = 0 ∧ (0x01 : Byte).toNat % 2 = 1 ∧ (0xFF : Byte).toNat % 2 = 1 ∧
      ((0xFC : Byte).toNat % 2 = 0 ∧ 250 < (0xFC : Byte).toNat) ∧
      CountOk 250 (0x02 : Byte).toNat ∧ CountOk 250 (0xFA : Byte).toNat) ∧
    (([] : List Byte).length = 0 ∧ (List.replicate 247 (0x00 : Byte)).length % 2 = 1 ∧
      ((List.replicate 248 (0x00 : Byte)).length % 2 = 0 ∧ 246 < (List.replicate 248 (0x00 : Byte)).length) ∧
      ((List.replicate 255 (0x00 : Byte)).length ≤ 255 ∧ (List.replicate 255 (0x00 : Byte)).length % 2 = 1) ∧
      CountOk 246 (List.replicate 2 (0x00 : Byte)).length ∧
      CountOk 246 (List.replicate 246 (0x00 : Byte)).length) := by decide +kernel

theorem witness_BuildReadAssemblesAndLatches :
    Memory.wf ctxW.txbuf ∧ (AddressOk 0xF7 ∧ CountOk 250 (0xFA : Byte).toNat) ∧
      ¬ (AddressOk 0xF7 ∧ CountOk 250 (0xFB : Byte).toNat) := by decide +kernel

theorem witness_BuildWriteAssemblesAndLatches :
    Memory.wf ctxR.txbuf ∧ (AddressOk 0xF7 ∧ CountOk 246 (List.replicate 246 (0x00 : Byte)).length) ∧
      ((List.replicate 255 (0x00 : Byte)).length ≤ 255 ∧
        ¬ (AddressOk 0xF7 ∧ CountOk 246 (List.replicate 255 (0x00 : Byte)).length)) := by decide +kernel

theorem witness_BuiltFrameVerifies :
    Memory.wf State.reset.txbuf ∧ AddressOk 0x01 ∧ CountOk 250 (0xFA : Byte).toNat ∧
      CountOk 246 (List.replicate 246 (0x00 : Byte)).length := by decide +kernel

theorem witness_RxPushAppendsOrIsRefused :
    Memory.wf (answered goodRead State.reset).rxbuf ∧ ({ State.reset with rxlen := 255 } : State).rxlen.toNat = 255 ∧
      ({ State.reset with rxlen := 254 } : State).rxlen.toNat ≠ 255 := by decide +kernel

theorem witness_TxRdReadsTheFrame :
    (0x07 : Byte).toNat < ctxR.txlen.toNat ∧ ctxR.txlen.toNat ≤ (0x08 : Byte).toNat := by decide +kernel

theorem witness_ResRdReadsTheResult :
    readDone.Inv ∧ (0x03 : Byte).toNat < readDone.dlen.toNat ∧ readDone.dlen.toNat ≤ (0x04 : Byte).toNat :=
  ⟨readDone_inv, by decide +kernel, by decide +kernel⟩

theorem witness_StatRdReadsTheNumberedRegister :
    ctxR.ctxv = true ∧ State.reset.ctxv = false ∧ 0x0F < (0x10 : Byte).toNat ∧ 0x0F < (0xFF : Byte).toNat := by
  decide +kernel

theorem witness_RxLoadFillsTheBuffer :
    Memory.wf readDone.rxbuf ∧ (List.replicate 255 (0x00 : Byte)).length ≤ 255 := by decide +kernel

theorem witness_DumpsPutOutFrameAndData : readDone.Inv := readDone_inv

theorem witness_ReadsHaveNoSideEffects :
    Instr.statRd 0x07 ∈ [Instr.txRd 0x07, .resRd 0x07, .statRd 0x07] ∧
    exec (.statRd 0x07) readDone = .next { readDone with result := [0x04] } ∧ readDone.ctxv = true ∧
    exec (.resRd 0x04) readDone = .next { readDone with status := 0x32 } ∧ (0x32 : Byte) ≠ readDone.status :=
  ⟨by decide, next_of_seen (by decide +kernel), by decide +kernel, next_of_seen (by decide +kernel), by decide +kernel⟩

theorem witness_CheckWithoutRequestRaises : State.reset.ctxv = false := rfl

theorem witness_CheckReadRunsItsStages : ctxR.ctxv = true ∧ ctxR.reqFunc = 0x04 := by decide +kernel

theorem witness_CheckWriteRunsItsStages :
    (ctxW.ctxv = true ∧ ctxW.reqFunc = 0x10) ∧ (ctxW5.ctxv = true ∧ ctxW5.reqFunc = 0x10) := by decide +kernel

/-- One CHECK that reaches its CRC stage, one that does not, and the first again from a state with another ACC. -/
theorem witness_CheckIsRepeatable :
    exec .check (answered goodRead ctxR) = .next readDone ∧ readDone.status = 0x02 ∧
    seen (exec .check (answered [0x01] ctxR)) State.status = some 0x20 ∧
    exec .check { answered goodRead ctxR with acc := 0x0000 } = .next readDone :=
  ⟨next_of_seen (by decide +kernel), by decide +kernel, by decide +kernel, next_of_seen (by decide +kernel)⟩

/-- One state for each of the two clauses, and for each of the three outcomes that reach S6. -/
theorem witness_CrcStageWritesAccAndCrcok :
    seen (exec .check (answered goodRead ctxR)) State.status = some 0x02 ∧
    seen (exec .check (answered [0x01, 0x10, 0x00, 0x10, 0x00, 0x02, 0x40, 0x0C] ctxW)) State.status = some 0x25 ∧
    seen (exec .check (answered [0x01, 0x10, 0x00, 0x11, 0x00, 0x02, 0x11, 0xCD] ctxW)) State.status = some 0x26 ∧
    seen (exec .check (answered [0x01] ctxW)) State.status = some 0x20 := by decide +kernel

/-- The three ways into the clause, each at its smallest length. -/
theorem witness_ExceptionBitEndsValidation :
    (let s := answered [0x01, 0x84, 0x02, 0xC2, 0xC1] ctxR
     s.ctxv = true ∧ (s.reqFunc = 0x04 ∧ 5 ≤ s.rxlen.toNat) ∧ byteAt (rxFrame s) 0 = s.reqAddr ∧
      (byteAt (rxFrame s) 1).getLsbD 7 = true ∧ byteAt (rxFrame s) 2 = 0x02 ∧ ExcMap.wf s.cfg.excMap) ∧
    (let s := answered [0x01, 0x84, 0x02, 0xC2, 0xC1, 0xAA, 0xBB, 0xCC] ctxW
     s.ctxv = true ∧ (s.reqFunc = 0x10 ∧ (if s.cfg.writeMinLen = .eight then 8 else 5) ≤ s.rxlen.toNat) ∧
      byteAt (rxFrame s) 0 = s.reqAddr ∧ (byteAt (rxFrame s) 1).getLsbD 7 = true) ∧
    (let s := answered [0x01, 0x90, 0x02, 0xCD, 0xC1] ctxW5
     s.ctxv = true ∧ (s.reqFunc = 0x10 ∧ (if s.cfg.writeMinLen = .eight then 8 else 5) ≤ s.rxlen.toNat) ∧
      byteAt (rxFrame s) 0 = s.reqAddr ∧ (byteAt (rxFrame s) 1).getLsbD 7 = true) := by decide +kernel

/-- V88 and V89. -/
theorem witness_EchoedCountIsNotChecked :
    (ctxW.ctxv = true ∧ ctxW.reqFunc = 0x10) ∧
    (let m : List Byte := [0x01, 0x10, 0x00, 0x10, 0x00, 0x03]
     rxFrame (answered [0x01, 0x10, 0x00, 0x10, 0x00, 0x03, 0x81, 0xCD] ctxW) =
      m ++ [crcLo (crc16 m), crcHi (crc16 m)]) ∧
    (let m : List Byte := [0x01, 0x10, 0x00, 0x10, 0x00, 0x02] ++ [0x00]
     rxFrame (answered [0x01, 0x10, 0x00, 0x10, 0x00, 0x02, 0x00, 0x0C, 0xF0] ctxW) =
      m ++ [crcLo (crc16 m), crcHi (crc16 m)]) := by decide +kernel

/-- The default map, and one that lists 0x02 alone. -/
theorem witness_ExceptionEnumerationIsClosed :
    ExcMap.wf defaultExcMap ∧ ExcMap.wf [(0x02, .illegalDataAddress)] ∧ (0x09 : Byte) ∉ defaultExcMap.map Prod.fst ∧
    excMember defaultExcMap 0x0A ≠ .unrecognized := by decide

theorem witness_StepKeepsTheInvariant :
    State.reset.Inv ∧ step State.reset = .next State.reset ∧
    readDone.Inv ∧ seen (step readDone) id = some readDone :=
  ⟨reset_inv, rfl, readDone_inv, by decide +kernel⟩

theorem witness_ResetMeetsTheInvariant : ExcMap.wf readDone.cfg.excMap := by decide +kernel

theorem witness_ResetInputTakesTheResetState : (Instr.buildRd 0x01 0x0000 0x04).wf = true := by decide

/-- Two states after reset that differ in a buffer byte and in a context register. -/
theorem witness_UnspecifiedStateIsNeverRead :
    (let t : State := { State.reset with txbuf := [(3, 0x77)], rxbuf := [(0, 0x55)], reqAddr := 0x09 }
     (Memory.wf State.reset.txbuf ∧ Memory.wf State.reset.rxbuf ∧ Memory.wf t.txbuf ∧ Memory.wf t.rxbuf) ∧
      State.reset ≠ t ∧ State.reset.SameSpecified t) := by
  refine ⟨by decide, by decide, ?_⟩
  exact ⟨rfl, rfl, rfl, rfl, rfl, rfl, rfl, rfl, fun h => absurd h (by decide), rfl, rfl, rfl, rfl, rfl, rfl, rfl, rfl⟩

theorem witness_OnlyAFullPushStops : State.reset.Inv ∧ readDone.Inv := ⟨reset_inv, readDone_inv⟩

theorem witness_OnlyReportingOperationsWriteStatus :
    IllegalOpcode 0x40 ∧ ({ State.reset with cmdIn := [0x40] } : State).cmdIn = (0x40 : Byte) :: [] ∧
    (Instr.txRd 0x00).wf = true ∧ exec (.txRd 0x00) State.reset = .next { State.reset with status := 0x32 } ∧
    exec .check (answered goodRead ctxR) = .next readDone :=
  ⟨by decide, rfl, rfl, rfl, next_of_seen (by decide +kernel)⟩

theorem witness_AccumulatorClobberIsLimited :
    Memory.wf State.reset.txbuf ∧ exec (.buildRd 0x01 0x0000 0x04) State.reset = .next ctxR :=
  ⟨by decide, next_of_seen (by decide +kernel)⟩

theorem witness_ResultStreamGrowsByTheTable :
    exec .crcRd State.reset = .next { State.reset with result := [0xFF, 0xFF] } := rfl

theorem witness_OperationsKeepToTheirBuffers :
    exec .check (answered goodRead ctxR) = .next readDone ∧ Memory.wf (answered goodRead ctxR).rxbuf ∧
      0 < (answered goodRead ctxR).rxlen.toNat ∧ Instr.check ≠ .rxClr :=
  ⟨next_of_seen (by decide +kernel), by decide +kernel, by decide +kernel, by decide⟩

theorem witness_ArgumentErrorTouchesNoTransport :
    ¬ (AddressOk 0x01 ∧ CountOk 250 (0xFB : Byte).toNat) ∧
      ((List.replicate 248 (0x00 : Byte)).length ≤ 255 ∧
        ¬ (AddressOk 0x01 ∧ CountOk 246 (List.replicate 248 (0x00 : Byte)).length)) := by decide +kernel

/-- One run for each outcome. -/
theorem witness_TransactionOutcomesAreClassified :
    ([closedPort, device [0x01], device [0x02, 0x04, 0x04, 0x00, 0x0A, 0x01, 0x02, 0x68, 0xD7], device goodRead,
      device [0x01, 0x84, 0x02, 0xC2, 0xC1, 0x00, 0x00, 0x00, 0x00]].map fun o =>
        (xactSeen (xactRead o 0x01 0x0000 0x04 State.reset)).map Prod.fst) =
      [some (.transportError .notOpen), some (.timeout .read (some 1)), some (.protocolError 0x21),
        some (.success [0x00, 0x0A, 0x01, 0x02]), some (.deviceException 0x02 2)] ∧
    (xactSeen (xactWrite closedPort 0x01 0x0010 [0x00] State.reset)).map Prod.fst = some (.argError 0x12) := by
  decide +kernel

theorem witness_WriteTransactionRoundTrip :
    Memory.wf State.reset.txbuf ∧ Memory.wf State.reset.rxbuf ∧ AddressOk 0x01 ∧
    CountOk 246 ([0x00, 0x0A, 0x01, 0x02] : List Byte).length ∧
    (device goodWrite).write (writeRequest 0x01 0x0010 [0x00, 0x0A, 0x01, 0x02]) = .written 13 ∧
    (device goodWrite).readExact 8 = .bytes (withCrc [0x01, 0x10, beHi 0x0010, beLo 0x0010, 0x00, 0x02]) := by
  decide +kernel

theorem witness_ReadTransactionRoundTrip :
    (let bytes : List Byte := [0x00, 0x0A, 0x01, 0x02]
     Memory.wf State.reset.txbuf ∧ Memory.wf State.reset.rxbuf ∧ AddressOk 0x01 ∧ CountOk 250 (0x04 : Byte).toNat ∧
      bytes.length = (0x04 : Byte).toNat ∧ (device goodRead).write (readRequest 0x01 0x0000 0x04) = .written 8 ∧
      (device goodRead).readExact (5 + (0x04 : Byte).toNat) = .bytes (withCrc ([0x01, 0x04, 0x04] ++ bytes))) := by
  decide +kernel

/-- Two states that share their parameters only, and a transaction of each kind that ends from the first. -/
theorem witness_TransactionReadsNothingFromBefore :
    (Memory.wf State.reset.txbuf ∧ Memory.wf State.reset.rxbuf ∧ Memory.wf readDone.txbuf ∧ Memory.wf readDone.rxbuf) ∧
    State.reset.cfg = readDone.cfg ∧
    (xactSeen (xactRead closedPort 0x01 0x0000 0x04 State.reset)).map Prod.fst = some (.transportError .notOpen) ∧
    (xactSeen (xactWrite (handleOracle (.deadline 1) [] port) 0x01 0x0010 [0x00, 0x0A] State.reset)).map Prod.fst =
      some (.timeout .write none) := by decide +kernel

/-- T5 and T6, under both policies. -/
theorem witness_ShortExceptionFollowsThePolicy :
    (let o : Oracle := device [0x01, 0x84, 0x02, 0xC2, 0xC1]
     let s : State := { State.reset with cfg := { defaultConfig with shortResponse := .validatePartial } }
     (Memory.wf s.txbuf ∧ Memory.wf s.rxbuf ∧ AddressOk 0x01 ∧ CountOk 250 (0x04 : Byte).toNat ∧
      CountOk 246 (List.replicate 4 (0x00 : Byte)).length ∧ (0x84 : Byte).getLsbD 7 = true) ∧
      (∀ f, ∃ k, o.write f = .written k) ∧ (∀ n, 5 < n → o.readExact n = .timeout [0x01, 0x84, 0x02, 0xC2, 0xC1]) ∧
      State.reset.cfg.shortResponse = .timeout ∧ s.cfg.shortResponse = .validatePartial) :=
  ⟨by decide, fun _ => ⟨_, rfl⟩, fun _ h => if_neg (Nat.not_le_of_lt h), rfl, rfl⟩

theorem witness_HandleLifeCycle :
    port.isOpen = true ∧ (newHandle "port" 100 100).isOpen = false ∧ ([0x01] : List Byte) ≠ [] ∧ 0 < 100 ∧
    port.opened = port.released + (if port.isOpen then 1 else 0) ∧
    (newHandle "port" 100 100).opened =
      (newHandle "port" 100 100).released + (if (newHandle "port" 100 100).isOpen then 1 else 0) := by decide

/-- For both clauses on chunks: enough bytes in time, and too few with a late chunk or with none after them. -/
theorem witness_ReadExactAnswersExactly :
    (let chunks : List (Nat × List Byte) := [(10, [0x01, 0x10, 0x00]), (99, [0x10, 0x00, 0x02, 0x40, 0x0D, 0x55])]
     (port.isOpen = true ∧ 0 < 8 ∧ 0 < port.readTimeout) ∧
      (∀ c ∈ chunks, c.1 < port.readTimeout ∧ c.2 ≠ []) ∧ 8 ≤ (port.input ++ (chunks.map Prod.snd).flatten).length ∧
      (port.input ++ (chunks.map Prod.snd).flatten).length < 10 ∧ port.readTimeout < 101 ∧
      answerOf (readExact 8 (chunks.map fun c => .bytes c.1 c.2) port) = some (.bytes goodWrite) ∧
      answerOf (readExact 10 (chunks.map fun c => .bytes c.1 c.2) port) = some (.timeout (goodWrite ++ [0x55])) ∧
      answerOf (readExact 10 ((chunks.map fun c => .bytes c.1 c.2) ++ [.bytes 101 [0x66]]) port) =
        some (.timeout (goodWrite ++ [0x55]))) :=
  ⟨by decide, by decide, by decide, by decide, by decide, rfl, rfl, rfl⟩

theorem witness_WholeReadIsNeverOfWrongLength :
    State.reset.cfg.shortResponse = .timeout ∧
    (xactSeen (xactRead (device goodRead) 0x01 0x0000 0x04 State.reset)).map Prod.fst =
      some (.success [0x00, 0x0A, 0x01, 0x02]) := by decide +kernel

theorem witness_HandleOracleIsTheHandle : 0 < 1 ∧ 0 < port.readTimeout := by decide

end Sys2Proof.Tests
end

section
/-! Decoding: a decoded operation is well-formed, and which bytes are no opcode (30_encoding.md R94, R96, R97). -/

namespace Sys2Proof

/-- The payload that operand assembly gives has the length that a one-byte operand counts (30_encoding.md R97). -/
theorem length_payload_of_decodeOperands {o : Opcode} {bs rest data : List Byte} {addr : Byte} {start : Word}
    (h : decodeOperands o bs = .command (.buildWr addr start data) rest) : data.length ≤ 255 := by
  unfold decodeOperands at h
  split at h
  case h_8 addr hi lo n bs =>
    split at h
    · cases h
      have hn := n.isLt
      rw [List.length_take]
      omega
    · cases h
  all_goals cases h

/-- Operand assembly gives well-formed operations only (30_encoding.md R97). -/
theorem wf_of_decodeOperands {o : Opcode} {bs rest : List Byte} {i : Instr}
    (h : decodeOperands o bs = .command i rest) : i.wf = true := by
  cases i with
  | buildWr addr start data => exact decide_eq_true (length_payload_of_decodeOperands h)
  | _ => rfl

/-- The decoder gives well-formed operations only (30_encoding.md R97). -/
theorem wf_of_decode {bs rest : List Byte} {i : Instr} (h : decode bs = .command i rest) : i.wf = true := by
  cases bs with
  | nil => cases h
  | cons op bs =>
    simp only [decode] at h
    split at h
    · cases h
    · exact wf_of_decodeOperands h

/-- No opcode of the map is among the illegal bytes (30_encoding.md R94, R96). -/
theorem not_illegalOpcode_opcodeByte (o : Opcode) : ¬ IllegalOpcode (opcodeByte o) := by
  cases o <;> decide

/-- An illegal byte is no opcode (30_encoding.md R96). -/
theorem opcodeOf_of_illegalOpcode {op : Byte} (h : IllegalOpcode op) : opcodeOf op = none := by
  refine List.find?_eq_none.mpr fun o _ ho => not_illegalOpcode_opcodeByte o ?_
  rwa [eq_of_beq ho]

/-- An illegal byte at the head of the stream is consumed alone (30_encoding.md R96). -/
theorem decode_of_illegalOpcode {op : Byte} (h : IllegalOpcode op) (rest : List Byte) :
    decode (op :: rest) = .illegal op rest := by
  rw [decode, opcodeOf_of_illegalOpcode h]

end Sys2Proof

namespace Sys2Proof.Machine

/-- A step on a whole command (10_state.md R38). -/
theorem step_of_command {s : State} {i : Instr} {rest : List Byte} (h : decode s.cmdIn = .command i rest) :
    step s = exec i (consumeTo rest s) := by
  rw [step, h]

/-- A step on an illegal opcode byte (30_encoding.md R96). -/
theorem step_of_illegal {s : State} {op : Byte} {rest : List Byte} (h : decode s.cmdIn = .illegal op rest) :
    step s = .next { consumeTo rest s with status := 0x31 } := by
  rw [step, h]
  rfl

/-- A step with no whole command on the stream (30_encoding.md R96, log 9). -/
theorem step_of_incomplete {s : State} (h : decode s.cmdIn = .incomplete) : step s = .next s := by
  rw [step, h]
  rfl

/-- Settles O6: the decoder gives well-formed operations only, and a step on a command is its execution. -/
theorem stepRunsTheDecodedCommand : Obligations.StepRunsTheDecodedCommand :=
  fun _ _ _ h => ⟨wf_of_decode h, step_of_command h⟩

end Sys2Proof.Machine
end

section
/-! STAT.RD, the three things it can do (42_buffers.md R165). -/

namespace Sys2Proof.Machine

/-- STAT.RD of a specified register puts it out (10_state.md R36). -/
theorem execStatRd_of_specified {s : State} {n v : Byte} (hv : statusRegister s n.toNat = some v)
    (hc : s.ctxv = true ∨ isContextRegister n.toNat = false) : execStatRd n s = .next (out v s) := by
  rw [execStatRd, hv]
  rcases hc with hc | hc <;> simp [hc]

/-- STAT.RD of a context register while CTXV = 0 draws a free byte (10_state.md R42, log 6). -/
theorem execStatRd_of_unspecified {s : State} {n v : Byte} (hv : statusRegister s n.toNat = some v)
    (hc : s.ctxv = false) (hn : isContextRegister n.toNat = true) : execStatRd n s = .next (drawOut s) := by
  rw [execStatRd, hv]
  simp [hc, hn]

/-- STAT.RD of a number that names no register raises (42_buffers.md R165). -/
theorem execStatRd_of_none {s : State} {n : Byte} (hv : statusRegister s n.toNat = none) :
    execStatRd n s = .next { s with status := 0x32 } := by
  rw [execStatRd, hv]
  rfl

/-- FLAGS as a sum: the two flags have a bit each (10_state.md R36). -/
theorem flagsByte_eq_add (s : State) :
    flagsByte s = (if s.ctxv then 0x01 else 0x00) + (if s.crcok then 0x02 else 0x00) := by
  unfold flagsByte
  cases s.ctxv <;> cases s.crcok <;> decide

/-- Settles O25: each number's register is looked up once, and STAT.RD does with it one of its three things. -/
theorem statRdReadsTheNumberedRegister : Obligations.StatRdReadsTheNumberedRegister := by
  intro s
  refine ⟨?_, ?_, fun n hn => execStatRd_of_none ((statusRegister_eq_none_iff s _).mpr hn)⟩
  · rw [← flagsByte_eq_add]
    simp only [List.forall_mem_cons]
    have specified {n v : Byte} (hv : statusRegister s n.toNat = some v) (hn : isContextRegister n.toNat = false) :
        exec (.statRd n) s = .next { s with result := s.result ++ [v] } :=
      execStatRd_of_specified hv (.inr hn)
    exact ⟨specified rfl rfl, specified rfl rfl, specified rfl rfl, specified rfl rfl, specified rfl rfl,
      specified rfl rfl, specified rfl rfl, specified rfl rfl, specified rfl rfl, specified rfl rfl, nofun⟩
  · simp only [List.forall_mem_cons]
    have context {n v : Byte} (hv : statusRegister s n.toNat = some v) (hn : isContextRegister n.toNat = true) :
        (s.ctxv = true → exec (.statRd n) s = .next { s with result := s.result ++ [v] }) ∧
          (s.ctxv = false → ∃ b : Byte,
            exec (.statRd n) s = .next { s with result := s.result ++ [b], draws := s.draws + 1 }) :=
      ⟨fun hc => execStatRd_of_specified hv (.inl hc), fun hc => ⟨_, execStatRd_of_unspecified hv hc hn⟩⟩
    exact ⟨context rfl rfl, context rfl rfl, context rfl rfl, context rfl rfl, context rfl rfl, context rfl rfl,
      nofun⟩

end Sys2Proof.Machine
end

section
/-! What each operation writes to STATUS (10_state.md R26). -/

namespace Sys2Proof.Machine

/-- What every BUILD writes to STATUS: an argument error's code, or ST_BUILT (41_build.md R151). The hypothesis is
what both `execBuildRd_cases` and `execBuildWr_cases` conclude. -/
theorem status_of_build {kind : RequestKind} {addr : Byte} {n : Nat} {start : Word} {bc : Byte} {frame : List Byte}
    {s t : State}
    (h : (∃ c, argCheck kind addr n = some c ∧
        t = { dropContext { clearResult s with txlen := 0 } with status := conditionCode c }) ∨
      (argCheck kind addr n = none ∧ t = latchRequest kind addr start bc frame s)) :
    t.status ∈ [0x01, 0x10, 0x11, 0x12, 0x13] := by
  rcases h with ⟨c, hc, rfl⟩ | ⟨-, rfl⟩
  · exact List.mem_cons_of_mem _ (argCheck_some_code hc)
  · exact List.mem_cons_self

/-- What CHECK writes to STATUS: a result, a protocol validation error, or 0x30 (43_check.md R171). -/
theorem status_of_checkWith {minLength : Nat} {s t : State} (h : checkWith minLength s = .next t) :
    t.status ∈ [0x02, 0x03, 0x20, 0x21, 0x22, 0x23, 0x24, 0x25, 0x26, 0x30] := by
  have of_checkCodes {c : Byte} (hc : c ∈ checkCodes) :
      c ∈ ([0x02, 0x03, 0x20, 0x21, 0x22, 0x23, 0x24, 0x25, 0x26, 0x30] : List Byte) :=
    List.mem_cons_of_mem _ (List.mem_cons_of_mem _ (List.mem_append_left [0x30] hc))
  rcases checkWith_cases h with
    ⟨-, rfl⟩ | ⟨-, ⟨c, -, -, hm, rfl⟩ | ⟨c, -, -, hm, rfl⟩ | ⟨-, rfl⟩ | ⟨off, len, -, -, -, rfl⟩⟩
  · simp
  · exact of_checkCodes hm
  · exact of_checkCodes hm
  · simp
  · simp

/-- What RES.RD writes to STATUS, when it completes (42_buffers.md R164). -/
theorem status_of_execResRd {k : Byte} {s t : State} (h : execResRd k s = .next t) :
    t.status = if k.toNat < s.dlen.toNat then s.status else 0x32 := by
  rw [execResRd_eq] at h
  split at h
  · cases h
    rw [if_neg (by omega)]
  split at h
  · cases h
  · cases h
    rw [if_pos (by omega), out_status]

/-- What STAT.RD writes to STATUS (42_buffers.md R165). -/
theorem status_of_execStatRd {n : Byte} {s t : State} (h : execStatRd n s = .next t) :
    t.status = if n.toNat ≤ 0x0F then s.status else 0x32 := by
  have hnone := statusRegister_eq_none_iff s n.toNat
  by_cases hn : n.toNat ≤ 0x0F
  · rw [if_pos hn]
    rcases execStatRd_cases h with ⟨hv, -⟩ | ⟨-, -, rfl⟩ | ⟨-, v, -, rfl⟩
    · exact absurd (hnone.mp hv) (by omega)
    · rfl
    · rfl
  · rw [if_neg hn]
    rw [execStatRd_of_none (hnone.mpr (by omega))] at h
    cases h
    rfl

/-- Settles O45: by cases on the operation, from what each of them can answer. -/
theorem onlyReportingOperationsWriteStatus : Obligations.OnlyReportingOperationsWriteStatus := by
  refine ⟨fun s op rest hop hs => ?_, fun i s t _ h => ?_⟩
  · exact ⟨_, step_of_illegal (hs ▸ decode_of_illegalOpcode hop rest), rfl⟩
  cases i with
  | crcInit => cases h; rfl
  | crcByte b => cases h; rfl
  | crcRd => cases h; rfl
  | buildRd addr start bc => exact status_of_build (execBuildRd_cases h)
  | crcVerify =>
    cases (execCrcVerify_eq s).symm.trans h
    exact apply_ite State.status _ _ _
  | buildWr addr start data => exact status_of_build (execBuildWr_cases h)
  | rxClr => cases h; rfl
  | rxPush b =>
    obtain ⟨-, rfl⟩ := execRxPush_cases h
    rfl
  | txRd k =>
    cases (execTxRd_eq k s).symm.trans h
    exact apply_ite State.status _ _ _
  | resRd k => exact status_of_execResRd h
  | check => exact status_of_checkWith h
  | excDec b => cases h; rfl
  | statRd n => exact status_of_execStatRd h

end Sys2Proof.Machine
end

section
/-! The invariant of 10_state.md R44: it holds after reset, and every operation keeps it. -/

namespace Sys2Proof.Machine

/-- Settles O41: each value is the one `State.reset` is written with. -/
theorem resetValues : Obligations.ResetValues := ⟨rfl, rfl, rfl, rfl, rfl, rfl, rfl, rfl, rfl, rfl⟩

/-- The reset input meets the invariant: no request, no view, empty buffers (10_state.md R41). -/
theorem inv_hostReset {s : State} (h : ExcMap.wf s.cfg.excMap) : (hostReset s).Inv where
  txbuf_wf := State.reset_buffers_wf.1
  rxbuf_wf := State.reset_buffers_wf.2
  txlen_ok := .inl rfl
  context_ok := nofun
  view_ok := ⟨Nat.le_refl 0, .inl ⟨rfl, rfl⟩⟩
  success_view := nofun
  status_ok := List.mem_cons_self
  excm_ok := Nat.zero_le 11
  excMap_wf := h

/-- Settles O40: the reset state is what the reset input makes of itself, and the default map meets R101. -/
theorem resetMeetsTheInvariant : Obligations.ResetMeetsTheInvariant :=
  ⟨inv_hostReset (s := State.reset) (by decide), fun _ => inv_hostReset⟩

/-! ### One rule per update of the state -/

/-- The invariant speaks of no other field: ACC, CRCOK, EXC, the two streams and the draws are free. -/
theorem inv_of_same_invariant_fields {s t : State} (h : s.Inv)
    (ht : t = { s with
      acc := t.acc, crcok := t.crcok, exc := t.exc, cmdIn := t.cmdIn, result := t.result, draws := t.draws } := by
        rfl) : t.Inv := by
  rw [ht]
  exact { h with }

/-- STATUS may become any listed code, but for that of a success only while CTXV = 1. -/
theorem inv_setStatus {s : State} (h : s.Inv) {c : Byte} (hc : c ∈ statusCodes)
    (hs : c = stSuccess → s.ctxv = true) : State.Inv { s with status := c } :=
  { h with success_view := hs, status_ok := hc }

theorem stBuilt_mem_statusCodes : stBuilt ∈ statusCodes := by decide

theorem stSuccess_mem_statusCodes : stSuccess ∈ statusCodes := by decide

/-- A condition's code is listed, and is not that of a success (60_exceptions.md R232). -/
theorem conditionCode_mem_statusCodes (c : Condition) :
    conditionCode c ∈ statusCodes ∧ conditionCode c ≠ stSuccess := by
  cases c <;> decide

/-- Taking a condition keeps the invariant (60_exceptions.md R231). -/
theorem inv_setCondition {s : State} (h : s.Inv) (c : Condition) :
    State.Inv { s with status := conditionCode c } :=
  inv_setStatus h (conditionCode_mem_statusCodes c).1 fun hs => absurd hs (conditionCode_mem_statusCodes c).2

/-- The response may be replaced when the view is withdrawn (10_state.md R35). -/
theorem inv_setResponse {s : State} (h : s.Inv) {m : Memory} (hm : Memory.wf m) (n : Byte) :
    State.Inv { clearView s with rxbuf := m, rxlen := n } :=
  { h with rxbuf_wf := hm, view_ok := ⟨Nat.zero_le _, .inl ⟨rfl, rfl⟩⟩ }

/-- Clearing the result registers keeps the invariant (10_state.md R34, R35). -/
theorem inv_clearResult {s : State} (h : s.Inv) : (clearResult s).Inv :=
  { h with view_ok := ⟨Nat.zero_le _, .inl ⟨rfl, rfl⟩⟩, excm_ok := Nat.zero_le 11 }

/-- The CRC comparison keeps the invariant (43_check.md R182). -/
theorem inv_compareCrc {s : State} (h : s.Inv) (r : List Byte) : (compareCrc r s).Inv :=
  inv_of_same_invariant_fields h

/-- A member id is at most 11 (30_encoding.md R102). -/
theorem toNat_memberId_le (m : Member) : (memberId m).toNat ≤ 11 := by
  cases m <;> decide

/-- Classifying an exception code keeps the invariant (10_state.md R34). -/
theorem inv_classify {s : State} (h : s.Inv) (raw : Byte) : (classify raw s).Inv :=
  { h with excm_ok := toNat_memberId_le _ }

/-- The view of a success keeps the invariant: it lies inside the response and is one of the two of 10_state.md
R35. -/
theorem inv_setView {s : State} (h : s.Inv) (hc : s.ctxv = true) {off len : Byte}
    (hl : off.toNat + len.toNat ≤ s.rxlen.toNat) (hv : (off = 2 ∧ len = 4) ∨ (off = 3 ∧ len = s.reqBc)) :
    State.Inv { s with doff := off, dlen := len, status := stSuccess } :=
  { h with view_ok := ⟨hl, .inr ⟨hc, hv⟩⟩, success_view := fun _ => hc, status_ok := stSuccess_mem_statusCodes }

/-! ### BUILD -/

/-- A rejected BUILD keeps the invariant: no frame, no request (41_build.md R151). -/
theorem inv_rejected {s : State} (h : s.Inv) (c : Condition) :
    State.Inv { dropContext { clearResult s with txlen := 0 } with status := conditionCode c } :=
  { inv_setCondition (inv_clearResult h) c with
    txlen_ok := .inl rfl
    context_ok := nofun
    view_ok := ⟨Nat.zero_le _, .inl ⟨rfl, rfl⟩⟩
    success_view := fun hs => absurd hs (conditionCode_mem_statusCodes c).2 }

/-- An accepted BUILD keeps the invariant if its length is legal and its context agrees with its frame. -/
theorem inv_latchRequest {s : State} (h : s.Inv) {kind : RequestKind} {addr : Byte} {start : Word} {bc : Byte}
    {frame : List Byte} (hl : frame.length ≤ 255)
    (ht : TxLengthOk (latchRequest kind addr start bc frame s))
    (hc : ContextOk (latchRequest kind addr start bc frame s)) :
    (latchRequest kind addr start bc frame s).Inv :=
  { inv_clearResult h with
    txbuf_wf := wf_latchRequest h.txbuf_wf hl
    txlen_ok := ht
    context_ok := fun _ => hc
    view_ok := ⟨Nat.zero_le _, .inl ⟨rfl, rfl⟩⟩
    success_view := fun _ => rfl
    status_ok := stBuilt_mem_statusCodes }

/-- The expected length of a read response fits a byte for every accepted count (41_build.md R145). -/
theorem toNat_expectedLength_read {bc : Byte} (h : bc.toNat ≤ 250) :
    (expectedLength .read bc).toNat = 5 + bc.toNat := by
  change (3 + bc + 2).toNat = _
  bv_omega

/-- An accepted BUILD.RD keeps the invariant (41_build.md R144, R145). -/
theorem inv_latchRead {s : State} (h : s.Inv) {addr : Byte} {start : Word} {bc : Byte}
    (ha : argCheck .read addr bc.toNat = none) :
    (latchRequest .read addr start bc (readRequest addr start bc) s).Inv := by
  obtain ⟨⟨haddr, haddr'⟩, hne, heven, hmax⟩ := (argCheck_eq_none_iff _ _ _).mp ha
  change bc.toNat ≤ 250 at hmax
  have hl : (readRequest addr start bc).length ≤ 255 := by simp
  have htx : (latchRequest .read addr start bc (readRequest addr start bc) s).txlen.toNat = 8 := by simp
  exact inv_latchRequest h hl (.inr (.inl htx)) ⟨htx.ge, haddr, haddr', .inl
    ⟨rfl, heven, by simp only [latchRequest_reqBc]; omega, hmax, toNat_expectedLength_read hmax,
      txFrame_latchRequest h.txbuf_wf hl⟩⟩

/-- The payload of a write request is bytes 7 on (41_build.md R149). -/
theorem payload_writeRequest (addr : Byte) (start : Word) (data : List Byte) :
    ((writeRequest addr start data).drop 7).take data.length = data := by
  simp [writeRequest, withCrc]

/-- An accepted BUILD.WR keeps the invariant (41_build.md R149, R150). -/
theorem inv_latchWrite {s : State} (h : s.Inv) {addr : Byte} {start : Word} {data : List Byte}
    (ha : argCheck .write addr data.length = none) :
    (latchRequest .write addr start (BitVec.ofNat 8 data.length) (writeRequest addr start data) s).Inv := by
  obtain ⟨⟨haddr, haddr'⟩, hne, heven, hmax⟩ := (argCheck_eq_none_iff _ _ _).mp ha
  change data.length ≤ 246 at hmax
  have hl : (writeRequest addr start data).length ≤ 255 := by simp; omega
  have hbc : (BitVec.ofNat 8 data.length).toNat = data.length := by rw [BitVec.toNat_ofNat]; omega
  have htx : (BitVec.ofNat 8 (writeRequest addr start data).length).toNat = 9 + data.length := by
    rw [BitVec.toNat_ofNat, length_writeRequest]; omega
  have hframe := txFrame_latchRequest (kind := .write) (addr := addr) (start := start)
    (bc := BitVec.ofNat 8 data.length) h.txbuf_wf hl
  refine inv_latchRequest h hl (.inr (.inr ?_)) ⟨?_, haddr, haddr', .inr ?_⟩
  · rw [latchRequest_txlen, htx]; omega
  · rw [latchRequest_txlen, htx]; omega
  · refine ⟨rfl, ?_, ?_, ?_, rfl, ?_, ?_⟩
    all_goals rw [latchRequest_reqBc, hbc]
    · exact heven
    · omega
    · exact hmax
    · rw [latchRequest_txlen, htx]
    · rw [hframe, payload_writeRequest]
      rfl

/-! ### CHECK, and all operations -/

/-- CHECK keeps the invariant: a success leaves a view that its length stage has seen to lie inside the response
(43_check.md R171, R184, R185). -/
theorem inv_checkWith {minLength : Nat} {s t : State} (h : s.Inv) (ht : checkWith minLength s = .next t) : t.Inv := by
  have hr := inv_clearResult h
  rcases checkWith_cases ht with
    ⟨-, rfl⟩ | ⟨hc, ⟨c, -, -, -, rfl⟩ | ⟨c, -, -, -, rfl⟩ | ⟨-, rfl⟩ | ⟨off, len, -, -, hv, rfl⟩⟩
  · exact inv_setCondition hr .noCtx
  · exact inv_setCondition hr c
  · exact inv_setCondition (inv_compareCrc hr _) c
  · exact inv_setStatus (inv_classify hr _) (by decide) nofun
  · refine inv_setView (inv_compareCrc hr _) hc ?_ ?_
    · rcases hv with ⟨-, rfl, rfl, hl⟩ | ⟨-, rfl, rfl, hl⟩
      · simp only [compareCrc_rxlen, clearResult_rxlen, hl]
        change 3 + _ ≤ _
        omega
      · simp only [compareCrc_rxlen, clearResult_rxlen]
        change 6 ≤ _
        omega
    · rcases hv with ⟨-, rfl, rfl, -⟩ | ⟨-, rfl, rfl, -⟩
      · exact .inr ⟨rfl, rfl⟩
      · exact .inl ⟨rfl, rfl⟩

/-- RX.PUSH keeps the invariant: it stores below the capacity (42_buffers.md R162). -/
theorem inv_execRxPush {b : Byte} {s t : State} (h : s.Inv) (ht : execRxPush b s = .next t) : t.Inv := by
  obtain ⟨hlt, rfl⟩ := execRxPush_cases ht
  exact inv_setResponse h (Memory.wf_write h.rxbuf_wf hlt b) _

/-- RES.RD keeps the invariant (42_buffers.md R164). -/
theorem inv_execResRd {k : Byte} {s t : State} (h : s.Inv) (ht : execResRd k s = .next t) : t.Inv := by
  rw [execResRd_eq] at ht
  split at ht
  · cases ht; exact inv_setCondition h .index
  split at ht
  · cases ht
  · cases ht; exact inv_of_same_invariant_fields h

/-- STAT.RD keeps the invariant (42_buffers.md R165). -/
theorem inv_execStatRd {n : Byte} {s t : State} (h : s.Inv) (ht : execStatRd n s = .next t) : t.Inv := by
  rcases execStatRd_cases ht with ⟨-, rfl⟩ | ⟨-, -, rfl⟩ | ⟨-, v, -, rfl⟩
  · exact inv_setCondition h .index
  · exact inv_of_same_invariant_fields h
  · exact inv_of_same_invariant_fields h

/-- Every operation keeps the invariant. -/
theorem inv_exec {i : Instr} {s t : State} (h : s.Inv) (ht : exec i s = .next t) : t.Inv := by
  cases i with
  | crcInit => cases ht; exact inv_of_same_invariant_fields h
  | crcByte b => cases ht; exact inv_of_same_invariant_fields h
  | crcRd => cases ht; exact inv_of_same_invariant_fields h
  | buildRd addr start bc =>
    rcases execBuildRd_cases ht with ⟨c, -, rfl⟩ | ⟨ha, rfl⟩
    · exact inv_rejected h c
    · exact inv_latchRead h ha
  | crcVerify =>
    cases (execCrcVerify_eq s).symm.trans ht
    split
    · exact inv_setCondition (s := { s with crcok := false }) (inv_of_same_invariant_fields h) .respShort
    · exact inv_compareCrc h _
  | buildWr addr start data =>
    rcases execBuildWr_cases ht with ⟨c, -, rfl⟩ | ⟨ha, rfl⟩
    · exact inv_rejected h c
    · exact inv_latchWrite h ha
  | rxClr => cases ht; exact inv_setResponse h h.rxbuf_wf 0
  | rxPush b => exact inv_execRxPush h ht
  | txRd k =>
    cases (execTxRd_eq k s).symm.trans ht
    split
    · exact inv_of_same_invariant_fields h
    · exact inv_setCondition h .index
  | resRd k => exact inv_execResRd h ht
  | check => exact inv_checkWith h ht
  | excDec b => cases ht; exact inv_of_same_invariant_fields (inv_classify h b)
  | statRd n => exact inv_execStatRd h ht

/-- Settles O39: consuming a command touches no field of the invariant, and every operation keeps it. -/
theorem stepKeepsTheInvariant : Obligations.StepKeepsTheInvariant := by
  intro s t h hstep
  have consumed (rest : List Byte) : (consumeTo rest s).Inv := inv_of_same_invariant_fields h
  rcases step_cases hstep with ⟨i, rest, -, hx⟩ | ⟨op, rest, -, rfl⟩ | ⟨-, rfl⟩
  · exact inv_exec (consumed rest) hx
  · exact inv_setCondition (consumed rest) .illegalCmd
  · exact h

end Sys2Proof.Machine
end

section
/-! Agreement on specified state (10_state.md R42): every update of the state keeps it, so every operation does. -/

namespace Sys2Proof.Machine

section updates
variable {s t : State} (h : s.SameSpecified t)
include h

/-! ### One rule per update of the state -/

theorem sameSpecified_consumeTo (rest : List Byte) : (consumeTo rest s).SameSpecified (consumeTo rest t) :=
  { h with cmdIn := rfl }

theorem sameSpecified_out (v : Byte) : (out v s).SameSpecified (out v t) :=
  { h with result := congrArg (· ++ [v]) h.result }

theorem sameSpecified_drawOut : (drawOut s).SameSpecified (drawOut t) :=
  { h with
    result := by simp only [drawOut_result, h.result, h.draws]
    draws := congrArg (· + 1) h.draws }

theorem sameSpecified_setAcc (a : Word) :
    State.SameSpecified { s with acc := a } { t with acc := a } :=
  { h with acc := rfl }

theorem sameSpecified_setStatus (c : Byte) :
    State.SameSpecified { s with status := c } { t with status := c } :=
  { h with status := rfl }

theorem sameSpecified_clearResult : (clearResult s).SameSpecified (clearResult t) :=
  { h with doff := rfl, dlen := rfl, exc := rfl, excm := rfl }

theorem sameSpecified_classify (raw : Byte) : (classify raw s).SameSpecified (classify raw t) :=
  { h with exc := rfl, excm := by simp only [classify_excm, h.cfg] }

theorem sameSpecified_compareCrc (r : List Byte) : (compareCrc r s).SameSpecified (compareCrc r t) :=
  { h with acc := rfl, crcok := rfl }

/-- Dropping the request leaves no specified byte of the frame and no specified context (41_build.md R151). -/
theorem sameSpecified_rejected (c : Byte) :
    State.SameSpecified { dropContext { clearResult s with txlen := 0 } with status := c }
      { dropContext { clearResult t with txlen := 0 } with status := c } :=
  { sameSpecified_clearResult h with
    txlen := rfl, txFrame := rfl, status := rfl, ctxv := rfl, context := nofun }

/-- A latched frame is the valid part of TXBUF, whatever was there before (41_build.md R144, R150). -/
theorem sameSpecified_latchRequest (hs : Memory.wf s.txbuf) (ht : Memory.wf t.txbuf) (kind : RequestKind) (addr : Byte)
    (start : Word) (bc : Byte) {frame : List Byte} (hl : frame.length ≤ 255) :
    (latchRequest kind addr start bc frame s).SameSpecified (latchRequest kind addr start bc frame t) :=
  { sameSpecified_clearResult h with
    acc := rfl
    txlen := rfl
    txFrame := (txFrame_latchRequest hs hl).trans (txFrame_latchRequest ht hl).symm
    status := rfl
    ctxv := rfl
    context := fun _ => ⟨rfl, rfl, rfl, rfl, rfl⟩ }

/-! ### One rule per operation that reads or branches -/

/-- RX.CLR leaves no specified byte of RXBUF (42_buffers.md R161). -/
theorem sameOutcome_execRxClr : SameOutcome (execRxClr s) (execRxClr t) :=
  { h with rxlen := rfl, rxFrame := rfl, doff := rfl, dlen := rfl }

/-- RX.PUSH appends to the valid response, or is refused, by RXLEN alone (42_buffers.md R162). -/
theorem sameOutcome_execRxPush (hs : Memory.wf s.rxbuf) (ht : Memory.wf t.rxbuf) (b : Byte) :
    SameOutcome (execRxPush b s) (execRxPush b t) := by
  unfold execRxPush
  rw [← h.rxlen]
  split
  · exact rfl
  · have hlt : s.rxlen.toNat < 255 := by bv_omega
    have hpush {u : State} (hu : Memory.wf u.rxbuf) (hx : u.rxlen = s.rxlen) :
        Memory.readRange (Memory.write u.rxbuf (pushAddress u) b) 0 (s.rxlen + 1).toNat = rxFrame u ++ [b] := by
      rw [toNat_rxlen_succ hlt, pushAddress, rxFrame, hx, readRange_push hu]
    exact { h with
      rxlen := rfl
      rxFrame := (hpush hs rfl).trans ((congrArg (· ++ [b]) h.rxFrame).trans (hpush ht h.rxlen.symm).symm)
      doff := rfl
      dlen := rfl }

/-- The valid bytes of TXBUF are the same in both (10_state.md R23). -/
theorem read_txbuf_congr {a : Nat} (ha : a < s.txlen.toNat) : Memory.read s.txbuf a = Memory.read t.txbuf a := by
  rw [← byteAt_txFrame ha, h.txFrame, byteAt_txFrame (h.txlen ▸ ha)]

/-- The valid bytes of RXBUF are the same in both (10_state.md R25). -/
theorem read_rxbuf_congr {a : Nat} (ha : a < s.rxlen.toNat) : Memory.read s.rxbuf a = Memory.read t.rxbuf a := by
  rw [← byteAt_rxFrame ha, h.rxFrame, byteAt_rxFrame (h.rxlen ▸ ha)]

/-- TX.RD reads below TXLEN only (42_buffers.md R163). -/
theorem sameOutcome_execTxRd (k : Byte) : SameOutcome (execTxRd k s) (execTxRd k t) := by
  unfold execTxRd txOperand
  rw [← h.txlen]
  by_cases hk : s.txlen.toNat ≤ k.toNat
  · rw [if_pos hk, if_pos hk]
    exact sameSpecified_setStatus h _
  · rw [if_neg hk, if_neg hk, ← read_txbuf_congr h (by omega)]
    exact sameSpecified_out h _

/-- RES.RD reads below RXLEN only (42_buffers.md R164). -/
theorem sameOutcome_execResRd (k : Byte) : SameOutcome (execResRd k s) (execResRd k t) := by
  unfold execResRd resAddress
  rw [← h.dlen, ← h.doff, ← h.rxlen]
  split
  · exact sameSpecified_setStatus h _
  split
  · exact rfl
  · rw [← read_rxbuf_congr h (by omega)]
    exact sameSpecified_out h _

/-- Every specified status register is the same in both (10_state.md R36). -/
theorem statusRegister_congr {n : Nat} (hc : s.ctxv = true ∨ isContextRegister n = false) :
    statusRegister s n = statusRegister t n := by
  have hctx (hn : isContextRegister n = true) :
      s.reqAddr = t.reqAddr ∧ s.reqFunc = t.reqFunc ∧ s.reqStart = t.reqStart ∧ s.reqBc = t.reqBc ∧
        s.explen = t.explen :=
    h.context (hc.resolve_right (by simp [hn]))
  unfold statusRegister flagsByte
  rw [h.status, h.ctxv, h.crcok, h.exc, h.excm, h.txlen, h.rxlen, h.doff, h.dlen, h.acc]
  split
  case h_9 | h_10 | h_11 | h_12 | h_13 | h_14 =>
    obtain ⟨haddr, hfunc, hstart, hbc, hexp⟩ := hctx rfl
    simp only [haddr, hfunc, hstart, hbc, hexp]
  all_goals rfl

/-- STAT.RD puts out a specified register or a free byte (42_buffers.md R165, log 6). -/
theorem sameOutcome_execStatRd (n : Byte) : SameOutcome (execStatRd n s) (execStatRd n t) := by
  have hnone : statusRegister t n.toNat = none ↔ statusRegister s n.toNat = none := by
    rw [statusRegister_eq_none_iff, statusRegister_eq_none_iff]
  obtain ⟨s', hs'⟩ := execStatRd_next n s
  rw [hs']
  rcases execStatRd_cases hs' with ⟨hv, rfl⟩ | ⟨hc, hn, rfl⟩ | ⟨hc, v, hv, rfl⟩
  · rw [execStatRd_of_none (hnone.mpr hv)]
    exact sameSpecified_setStatus h _
  · obtain ⟨w, hw⟩ : ∃ w, statusRegister t n.toNat = some w := by
      refine Option.ne_none_iff_exists'.mp fun hw => ?_
      have := (statusRegister_eq_none_iff t n.toNat).mp hw
      simp only [isContextRegister, Bool.and_eq_true, decide_eq_true_eq] at hn
      omega
    rw [execStatRd_of_unspecified hw (h.ctxv ▸ hc) hn]
    exact sameSpecified_drawOut h
  · rw [execStatRd_of_specified ((statusRegister_congr h hc).symm.trans hv) (h.ctxv ▸ hc)]
    exact sameSpecified_out h v

/-- CRC.VERIFY reads the valid response only (40_crc.md R129). -/
theorem sameOutcome_execCrcVerify : SameOutcome (execCrcVerify s) (execCrcVerify t) := by
  unfold execCrcVerify
  by_cases hl : s.rxlen.toNat < 2
  · rw [if_pos hl, if_pos (h.rxlen ▸ hl)]
    exact { h with crcok := rfl, status := rfl }
  · rw [if_neg hl, if_neg (h.rxlen ▸ hl), ← h.rxFrame]
    exact sameSpecified_compareCrc h _

/-- What a verdict does to the state (43_check.md R171). -/
theorem sameOutcome_report (v : Verdict) : SameOutcome (report v s) (report v t) := by
  cases v with
  | success off len => exact { h with doff := rfl, dlen := rfl, status := rfl }
  | devExc raw => exact sameSpecified_setStatus (sameSpecified_classify h raw) _
  | err c => exact sameSpecified_setStatus h _

/-- CHECK reads the context only while CTXV = 1, and the valid response only (43_check.md R171, R186). -/
theorem sameOutcome_execCheck : SameOutcome (execCheck s) (execCheck t) := by
  have hr := sameSpecified_clearResult h
  unfold execCheck
  rw [← h.cfg]
  cases hc : s.ctxv with
  | false =>
    rw [checkWith_of_no_context hc, checkWith_of_no_context (h.ctxv ▸ hc)]
    exact sameSpecified_setStatus hr _
  | true =>
    obtain ⟨haddr, hfunc, hstart, hbc, -⟩ := h.context hc
    rw [checkWith_of_context hc, checkWith_of_context (h.ctxv ▸ hc), ← judge_congr haddr hfunc hstart hbc h.rxFrame,
      ← h.rxFrame]
    split
    · exact sameOutcome_report (sameSpecified_compareCrc hr _) _
    · exact sameOutcome_report hr _

/-- EXC.DEC reads EXC_MAP alone (43_check.md R187). -/
theorem sameOutcome_execExcDec (b : Byte) : SameOutcome (execExcDec b s) (execExcDec b t) := by
  have hb := sameSpecified_classify h b
  simp only [execExcDec, ← hb.excm]
  exact sameSpecified_out hb _

/-- BUILD.RD reads its operands alone (41_build.md R144). -/
theorem sameOutcome_execBuildRd (hs : Memory.wf s.txbuf) (ht : Memory.wf t.txbuf) (addr : Byte) (start : Word)
    (bc : Byte) : SameOutcome (execBuildRd addr start bc s) (execBuildRd addr start bc t) := by
  cases ha : argCheck .read addr bc.toNat with
  | some c =>
    rw [execBuildRd_of_some ha, execBuildRd_of_some ha]
    exact sameSpecified_rejected h _
  | none =>
    rw [execBuildRd_of_none ha, execBuildRd_of_none ha]
    exact sameSpecified_latchRequest h hs ht _ _ _ _ (by simp)

/-- BUILD.WR reads its operands alone (41_build.md R150). -/
theorem sameOutcome_execBuildWr (hs : Memory.wf s.txbuf) (ht : Memory.wf t.txbuf) (addr : Byte) (start : Word)
    (data : List Byte) : SameOutcome (execBuildWr addr start data s) (execBuildWr addr start data t) := by
  cases ha : argCheck .write addr data.length with
  | some c =>
    rw [execBuildWr_of_some ha, execBuildWr_of_some ha]
    exact sameSpecified_rejected h _
  | none =>
    obtain ⟨-, -, -, hmax⟩ := (argCheck_eq_none_iff _ _ _).mp ha
    change data.length ≤ 246 at hmax
    rw [execBuildWr_of_none ha, execBuildWr_of_none ha]
    exact sameSpecified_latchRequest h hs ht _ _ _ _ (by rw [length_writeRequest]; omega)

/-- Every operation keeps the agreement (10_state.md R42). -/
theorem sameOutcome_exec (hst : Memory.wf s.txbuf) (hsr : Memory.wf s.rxbuf) (htt : Memory.wf t.txbuf)
    (htr : Memory.wf t.rxbuf) (i : Instr) : SameOutcome (exec i s) (exec i t) := by
  cases i with
  | crcInit => exact sameSpecified_setAcc h _
  | crcByte b =>
    simp only [exec, execCrcByte, ← h.acc]
    exact sameSpecified_setAcc h _
  | crcRd =>
    simp only [exec, execCrcRd, ← h.acc]
    exact sameSpecified_out (sameSpecified_out h _) _
  | buildRd addr start bc => exact sameOutcome_execBuildRd h hst htt addr start bc
  | crcVerify => exact sameOutcome_execCrcVerify h
  | buildWr addr start data => exact sameOutcome_execBuildWr h hst htt addr start data
  | rxClr => exact sameOutcome_execRxClr h
  | rxPush b => exact sameOutcome_execRxPush h hsr htr b
  | txRd k => exact sameOutcome_execTxRd h k
  | resRd k => exact sameOutcome_execResRd h k
  | check => exact sameOutcome_execCheck h
  | excDec b => exact sameOutcome_execExcDec h b
  | statRd n => exact sameOutcome_execStatRd h n

end updates

/-- Settles O43: both states decode the same command, and every operation keeps the agreement. -/
theorem unspecifiedStateIsNeverRead : Obligations.UnspecifiedStateIsNeverRead := by
  intro s t hst hsr htt htr h
  cases hd : decode s.cmdIn with
  | command i rest =>
    rw [step_of_command hd, step_of_command (h.cmdIn ▸ hd)]
    exact sameOutcome_exec (sameSpecified_consumeTo h rest) hst hsr htt htr i
  | illegal op rest =>
    rw [step_of_illegal hd, step_of_illegal (h.cmdIn ▸ hd)]
    exact sameSpecified_setStatus (sameSpecified_consumeTo h rest) _
  | incomplete =>
    rw [step_of_incomplete hd, step_of_incomplete (h.cmdIn ▸ hd)]
    exact h

end Sys2Proof.Machine
end

section
/-! The three reads put out a byte, raise or draw, and nothing else (20_memory.md R58). -/

namespace Sys2Proof.Machine

/-- What a read `op` that completes in `s` can leave: an index error, a free byte (log 6), or a byte that `op` puts
out again when it is repeated. -/
inductive ReadOutcome (op : State → Result) (s : State) : State → Prop where
  | index : ReadOutcome op s { s with status := 0x32 }
  | draw (hc : s.ctxv = false) : ReadOutcome op s (drawOut s)
  | byte (v : Byte) (again : op (out v s) = .next (out v (out v s))) : ReadOutcome op s (out v s)

@[simp] theorem txFrame_out (v : Byte) (s : State) : txFrame (out v s) = txFrame s := rfl

@[simp] theorem rxFrame_out (v : Byte) (s : State) : rxFrame (out v s) = rxFrame s := rfl

/-- The result stream is no status register (10_state.md R36). -/
@[simp] theorem statusRegister_out (v : Byte) (s : State) (n : Nat) :
    statusRegister (out v s) n = statusRegister s n := rfl

/-- TX.RD looks at TXLEN and the frame alone (42_buffers.md R163). -/
theorem readOutcome_execTxRd {k : Byte} {s t : State} (h : execTxRd k s = .next t) :
    ReadOutcome (execTxRd k) s t := by
  cases (execTxRd_eq k s).symm.trans h
  split
  · next hk => exact .byte _ (by rw [execTxRd_eq, out_txlen, if_pos hk, txFrame_out])
  · exact .index

/-- RES.RD looks at the view and the response alone (42_buffers.md R164). -/
theorem readOutcome_execResRd {k : Byte} {s t : State} (h : execResRd k s = .next t) :
    ReadOutcome (execResRd k) s t := by
  rw [execResRd_eq] at h
  split at h
  · cases h; exact .index
  · next hk =>
    split at h
    · cases h
    · next hl =>
      cases h
      exact .byte _ (by rw [execResRd_eq, out_dlen, out_rxlen, out_doff, if_neg hk, if_neg hl, rxFrame_out])

/-- STAT.RD looks at its register and CTXV alone (42_buffers.md R165). -/
theorem readOutcome_execStatRd {n : Byte} {s t : State} (h : execStatRd n s = .next t) :
    ReadOutcome (execStatRd n) s t := by
  rcases execStatRd_cases h with ⟨-, rfl⟩ | ⟨hc, -, rfl⟩ | ⟨hc, v, hv, rfl⟩
  · exact .index
  · exact .draw hc
  · exact .byte v (execStatRd_of_specified hv hc)

/-- Settles O28: by cases on what a read can leave. -/
theorem readsHaveNoSideEffects : Obligations.ReadsHaveNoSideEffects := by
  intro s t i k hi h
  have outcome : ReadOutcome (exec i) s t := by
    simp only [List.mem_cons, List.not_mem_nil, or_false] at hi
    rcases hi with rfl | rfl | rfl
    · exact readOutcome_execTxRd h
    · exact readOutcome_execResRd h
    · exact readOutcome_execStatRd h
  cases outcome with
  | index =>
    exact ⟨rfl, fun _ => ⟨rfl, rfl⟩, fun _ => ⟨rfl, fun b hb => nomatch List.self_eq_append_right.mp hb⟩⟩
  | draw hc =>
    exact ⟨rfl, fun hs => absurd rfl hs, fun hc' => absurd (hc.symm.trans hc') (by decide)⟩
  | byte v again =>
    refine ⟨rfl, fun hs => absurd rfl hs, fun _ => ⟨rfl, fun b hb => ⟨_, again, ?_⟩⟩⟩
    rw [out_result, List.append_cancel_left hb]

end Sys2Proof.Machine
end

section
/-! What each operation can do to the streams, the parameters and the buffers (20_memory.md R51, R66; 10_state.md
R39). -/

namespace Sys2Proof.Machine

/-- The fields that few operations write: the command stream, the parameters, and what RXBUF and TXBUF hold. -/
structure BufferPart where
  cmdIn : List Byte
  cfg : Config
  txbuf : Memory
  rxbuf : Memory
  rxlen : Byte

/-- Those fields of a state. -/
def State.bufferPart (s : State) : BufferPart :=
  { cmdIn := s.cmdIn, cfg := s.cfg, txbuf := s.txbuf, rxbuf := s.rxbuf, rxlen := s.rxlen }

/-- A read touches no buffer (20_memory.md R58). -/
theorem bufferPart_of_readOutcome {op : State → Result} {s t : State} (h : ReadOutcome op s t) :
    t.bufferPart = s.bufferPart := by
  cases h <;> rfl

/-- CHECK touches no buffer (43_check.md R186). -/
theorem bufferPart_checkWith {minLength : Nat} {s t : State} (h : checkWith minLength s = .next t) :
    t.bufferPart = s.bufferPart := by
  rcases checkWith_cases h with
    ⟨-, rfl⟩ | ⟨-, ⟨c, -, -, -, rfl⟩ | ⟨c, -, -, -, rfl⟩ | ⟨-, rfl⟩ | ⟨off, len, -, -, -, rfl⟩⟩
  all_goals rfl

/-- A BUILD touches TXBUF alone, and that only when it latches a frame (41_build.md R151). The hypothesis is what both
`execBuildRd_cases` and `execBuildWr_cases` conclude. -/
theorem bufferPart_of_build {kind : RequestKind} {addr : Byte} {n : Nat} {start : Word} {bc : Byte}
    {frame : List Byte} {s t : State}
    (h : (∃ c, argCheck kind addr n = some c ∧
        t = { dropContext { clearResult s with txlen := 0 } with status := conditionCode c }) ∨
      (argCheck kind addr n = none ∧ t = latchRequest kind addr start bc frame s)) :
    t.bufferPart = { s.bufferPart with txbuf := t.txbuf } := by
  rcases h with ⟨c, -, rfl⟩ | ⟨-, rfl⟩ <;> rfl

/-- Everything an operation can do to the buffers: nothing, or what a BUILD, RX.CLR or RX.PUSH does. -/
theorem bufferPart_exec_cases {i : Instr} {s t : State} (h : exec i s = .next t) :
    t.bufferPart = s.bufferPart ∨
    ((∃ addr start bc data, i = .buildRd addr start bc ∨ i = .buildWr addr start data) ∧
      t.bufferPart = { s.bufferPart with txbuf := t.txbuf }) ∨
    (i = .rxClr ∧ t.bufferPart = { s.bufferPart with rxlen := 0 }) ∨
    (∃ b, i = .rxPush b ∧ s.rxlen.toNat < 255 ∧
      t.bufferPart =
        { s.bufferPart with rxbuf := Memory.write s.rxbuf s.rxlen.toNat b, rxlen := s.rxlen + 1 }) := by
  cases i with
  | crcInit => cases h; exact .inl rfl
  | crcByte b => cases h; exact .inl rfl
  | crcRd => cases h; exact .inl rfl
  | buildRd addr start bc =>
    exact .inr (.inl ⟨⟨addr, start, bc, [], .inl rfl⟩, bufferPart_of_build (execBuildRd_cases h)⟩)
  | crcVerify =>
    cases (execCrcVerify_eq s).symm.trans h
    refine .inl ?_
    split <;> rfl
  | buildWr addr start data =>
    exact .inr (.inl ⟨⟨addr, start, 0, data, .inr rfl⟩, bufferPart_of_build (execBuildWr_cases h)⟩)
  | rxClr => cases h; exact .inr (.inr (.inl ⟨rfl, rfl⟩))
  | rxPush b =>
    obtain ⟨hlt, rfl⟩ := execRxPush_cases h
    exact .inr (.inr (.inr ⟨b, rfl, hlt, rfl⟩))
  | txRd k => exact .inl (bufferPart_of_readOutcome (readOutcome_execTxRd h))
  | resRd k => exact .inl (bufferPart_of_readOutcome (readOutcome_execResRd h))
  | check => exact .inl (bufferPart_checkWith h)
  | excDec b => cases h; exact .inl rfl
  | statRd n => exact .inl (bufferPart_of_readOutcome (readOutcome_execStatRd h))

/-- Settles O48: by cases on what an operation can do to the buffers; a push stores past the valid response. -/
theorem operationsKeepToTheirBuffers : Obligations.OperationsKeepToTheirBuffers := by
  intro i s t h
  rcases bufferPart_exec_cases h with hp | ⟨hi, hp⟩ | ⟨rfl, hp⟩ | ⟨b, rfl, hlt, hp⟩
  all_goals obtain ⟨hcmd, hcfg, htx, hrx, hlen⟩ := BufferPart.mk.inj hp
  · exact ⟨hcmd, hcfg, .inl htx, .inl hrx, fun _ a _ => congrArg (Memory.read · a) hrx,
      fun _ => (congrArg BitVec.toNat hlen).ge⟩
  · exact ⟨hcmd, hcfg, .inr hi, .inl hrx, fun _ a _ => congrArg (Memory.read · a) hrx,
      fun _ => (congrArg BitVec.toNat hlen).ge⟩
  · exact ⟨hcmd, hcfg, .inl htx, .inl hrx, fun _ a _ => congrArg (Memory.read · a) hrx,
      fun hne => absurd rfl hne⟩
  · refine ⟨hcmd, hcfg, .inl htx, .inr ⟨b, rfl⟩, fun hw a ha => ?_, fun _ => ?_⟩
    · rw [hrx, Memory.read_write hw, if_neg (by omega)]
    · rw [hlen, toNat_rxlen_succ hlt]
      omega

end Sys2Proof.Machine
end

section
/-! The two directions of decode and encode, and what follows from them: lengths, illegal bytes and commands cut short
(30_encoding.md R93 to R97). -/

namespace Sys2Proof

/-! ### Encoding, then decoding -/

/-- Decoding an encoded operation gives it back and leaves the bytes after it (30_encoding.md R93 to R97). -/
theorem decode_encode_append {i : Instr} (h : i.wf = true) (rest : List Byte) :
    decode (encode i ++ rest) = .command i rest := by
  cases i with
  | crcInit => exact Laws.RoundTrip.crcInit h rest
  | crcByte b => exact Laws.RoundTrip.crcByte b h rest
  | crcRd => exact Laws.RoundTrip.crcRd h rest
  | buildRd addr start bc => exact Laws.RoundTrip.buildRd addr start bc h rest
  | crcVerify => exact Laws.RoundTrip.crcVerify h rest
  | buildWr addr start data => exact Laws.RoundTrip.buildWr addr start data h rest
  | rxClr => exact Laws.RoundTrip.rxClr h rest
  | rxPush b => exact Laws.RoundTrip.rxPush b h rest
  | txRd k => exact Laws.RoundTrip.txRd k h rest
  | resRd k => exact Laws.RoundTrip.resRd k h rest
  | check => exact Laws.RoundTrip.check h rest
  | excDec b => exact Laws.RoundTrip.excDec b h rest
  | statRd n => exact Laws.RoundTrip.statRd n h rest

/-- Settles O1: by cases on the operation, from the round trip of each. -/
theorem encodedCommandDecodesToItself : Obligations.EncodedCommandDecodesToItself :=
  fun _ rest h => decode_encode_append h rest

/-! ### Decoding, then encoding -/

/-- The byte that an opcode was found for is that opcode's byte (30_encoding.md R94). -/
theorem opcodeByte_of_opcodeOf {op : Byte} {o : Opcode} (h : opcodeOf op = some o) : opcodeByte o = op :=
  eq_of_beq (List.find?_some (p := fun o => opcodeByte o == op) h)

/-- Operand assembly takes exactly the operand bytes that the encoder writes: format W splits its payload off at the
byte it counts, and the start register is split and joined again. -/
theorem encode_of_decodeOperands {o : Opcode} {bs rest : List Byte} {i : Instr}
    (h : decodeOperands o bs = .command i rest) : encode i ++ rest = opcodeByte o :: bs := by
  unfold decodeOperands at h
  split at h
  case h_5 addr hi lo bc bs =>
    cases h
    simp [encode]
  case h_8 addr hi lo n bs =>
    split at h
    · next hn =>
      cases h
      simp [encode, hn]
    · cases h
  all_goals cases h
  all_goals rfl

/-- A decoded operation encodes to exactly the bytes consumed (30_encoding.md R93 to R97). -/
theorem encode_append_of_decode {bs rest : List Byte} {i : Instr} (h : decode bs = .command i rest) :
    encode i ++ rest = bs := by
  cases bs with
  | nil => cases h
  | cons op bs =>
    simp only [decode] at h
    split at h
    · cases h
    · next o ho => rw [encode_of_decodeOperands h, opcodeByte_of_opcodeOf ho]

/-- Settles O2: from what operand assembly consumes, for the opcode that was found. -/
theorem decodedCommandIsTheBytesConsumed : Obligations.DecodedCommandIsTheBytesConsumed :=
  fun _ _ _ h => ⟨wf_of_decode h, encode_append_of_decode h⟩

/-! ### Lengths -/

/-- Every opcode of the map is found by its byte: no two share one (30_encoding.md R94). -/
theorem decode_opcodeByte_cons (o : Opcode) (bs : List Byte) : decode (opcodeByte o :: bs) = decodeOperands o bs := by
  cases o <;> rfl

/-- Format Z has no operand byte (30_encoding.md R95). -/
theorem decodeOperands_formatZ {o : Opcode} (h : opcodeFormat o = .z) (bs : List Byte) :
    ∃ i, decodeOperands o bs = .command i bs := by
  cases o with
  | crcInit | crcRd | crcVerify | rxClr | check => exact ⟨_, rfl⟩
  | _ => cases h

/-- Format B has one operand byte (30_encoding.md R95). -/
theorem decodeOperands_formatB {o : Opcode} (h : opcodeFormat o = .b) (b : Byte) (bs : List Byte) :
    ∃ i, decodeOperands o (b :: bs) = .command i bs := by
  cases o with
  | crcByte | rxPush | txRd | resRd | excDec | statRd => exact ⟨_, rfl⟩
  | _ => cases h

/-- Format W has as many payload bytes as the byte at offset 4 counts (30_encoding.md R95, R97). -/
theorem decodeOperands_buildWr (addr hi lo : Byte) {n : Byte} {data : List Byte} (h : data.length = n.toNat)
    (bs : List Byte) :
    decodeOperands .buildWr (addr :: hi :: lo :: n :: (data ++ bs)) =
      .command (.buildWr addr (be16 hi lo) data) bs := by
  simp [decodeOperands, ← h]

/-- The opcode bytes of format Z, as numbers (30_encoding.md R94). -/
theorem exists_opcode_formatZ :
    ∀ op ∈ ([0x01, 0x03, 0x05, 0x20, 0x30] : List Byte), ∃ o ∈ opcodes, opcodeByte o = op ∧ opcodeFormat o = .z := by
  decide

/-- The opcode bytes of format B, as numbers (30_encoding.md R94). -/
theorem exists_opcode_formatB :
    ∀ op ∈ ([0x02, 0x21, 0x22, 0x23, 0x31, 0x3F] : List Byte),
      ∃ o ∈ opcodes, opcodeByte o = op ∧ opcodeFormat o = .b := by
  decide

/-- Settles O3: format by format, from the operand bytes each takes. -/
theorem commandLengthFollowsFormat : Obligations.CommandLengthFollowsFormat := by
  refine ⟨fun op bs hop => ?_, fun op b bs hop => ?_, fun addr hi lo bc bs => ⟨_, rfl⟩,
    fun addr hi lo n data bs hn => ⟨.buildWr addr (be16 hi lo) data, ?_⟩⟩
  · obtain ⟨o, -, rfl, ho⟩ := exists_opcode_formatZ op hop
    rw [decode_opcodeByte_cons]
    exact decodeOperands_formatZ ho bs
  · obtain ⟨o, -, rfl, ho⟩ := exists_opcode_formatB op hop
    rw [decode_opcodeByte_cons]
    exact decodeOperands_formatB ho b bs
  · exact (decode_opcodeByte_cons .buildWr _).trans (decodeOperands_buildWr addr hi lo hn bs)

/-- Settles O5: the decoder computes each word. -/
theorem specWordsDecode : Obligations.SpecWordsDecode := ⟨rfl, rfl, rfl, rfl, rfl, rfl⟩

/-! ### Further bytes, and commands cut short -/

/-- Operand assembly finds no illegal opcode: it begins after the opcode (30_encoding.md R96). -/
theorem decodeOperands_ne_illegal (o : Opcode) (bs : List Byte) (op : Byte) (rest : List Byte) :
    decodeOperands o bs ≠ .illegal op rest := by
  unfold decodeOperands
  split
  case h_8 => split <;> nofun
  all_goals nofun

/-- What makes a stream illegal is its first byte alone (30_encoding.md R96). -/
theorem decode_eq_illegal {bs rest : List Byte} {op : Byte} (h : decode bs = .illegal op rest) :
    bs = op :: rest ∧ opcodeOf op = none := by
  cases bs with
  | nil => cases h
  | cons b bs =>
    simp only [decode] at h
    split at h
    · next hb =>
      cases h
      exact ⟨rfl, hb⟩
    · exact absurd h (decodeOperands_ne_illegal _ _ _ _)

/-- Bytes that follow an illegal opcode do not change how it is read (30_encoding.md R96). -/
theorem decode_append_of_illegal {bs rest : List Byte} {op : Byte} (h : decode bs = .illegal op rest)
    (cs : List Byte) : decode (bs ++ cs) = .illegal op (rest ++ cs) := by
  obtain ⟨rfl, hop⟩ := decode_eq_illegal h
  rw [List.cons_append, decode, hop]

/-- Bytes that follow a whole command do not change how it is read: no command begins another (30_encoding.md
R95). -/
theorem decode_append_of_command {bs rest : List Byte} {i : Instr} (h : decode bs = .command i rest)
    (cs : List Byte) : decode (bs ++ cs) = .command i (rest ++ cs) := by
  rw [← encode_append_of_decode h, List.append_assoc]
  exact decode_encode_append (wf_of_decode h) _

/-- A proper beginning of a command is incomplete: were it read as anything else, so would the whole command be, with
the missing bytes left over (30_encoding.md R96). -/
theorem decode_take_encode {i : Instr} {k : Nat} (hi : i.wf = true) (hk : k < (encode i).length) :
    decode ((encode i).take k) = .incomplete := by
  have whole : decode ((encode i).take k ++ (encode i).drop k) = .command i [] := by
    have := decode_encode_append hi []
    rwa [List.append_nil, ← List.take_append_drop k (encode i)] at this
  cases hd : decode ((encode i).take k) with
  | command j rest =>
    have hleft := (Decoded.command.inj ((decode_append_of_command hd _).symm.trans whole)).2
    have := (List.append_eq_nil_iff.mp hleft).2
    rw [List.drop_eq_nil_iff] at this
    omega
  | illegal op rest => cases (decode_append_of_illegal hd _).symm.trans whole
  | incomplete => rfl

end Sys2Proof

namespace Sys2Proof.Machine

/-- Settles O4: an illegal byte is decoded alone and raises; a proper beginning of a command is incomplete. -/
theorem illegalAndCutShortCommands : Obligations.IllegalAndCutShortCommands :=
  ⟨fun _ _ rest hop hs => step_of_illegal (hs ▸ decode_of_illegalOpcode hop rest),
    fun _ _ _ hi hk hs => step_of_incomplete (hs ▸ decode_take_encode hi hk)⟩

end Sys2Proof.Machine
end

section
/-! The pseudo-operations RX.LOAD, TX.DUMP and RES.DUMP as runs of their operations (30_encoding.md R104). -/

namespace Sys2Proof.Machine

/-- Settles O26: RX.CLR empties the response and withdraws the view, and the pushes then append every byte. -/
theorem rxLoadFillsTheBuffer : Obligations.RxLoadFillsTheBuffer := by
  intro s bs hw hl
  obtain ⟨t, hrun, hframe, -, ht⟩ :=
    runOps_rxPush bs { clearView s with rxlen := 0 } hw (by simpa using hl) rfl rfl
  refine ⟨t, hrun, hframe, ht.trans ?_⟩
  simp [clearView]

/-- Settles O27: the reads put out consecutive bytes, of the frame and of the view in the response. -/
theorem dumpsPutOutFrameAndData : Obligations.DumpsPutOutFrameAndData := by
  refine ⟨fun s => ?_, fun s hs => ?_⟩
  · have hall := map_byteAt_range (txFrame s) 0 s.txlen.toNat (by simp)
    simp only [Nat.zero_add, List.drop_zero, ← length_txFrame, List.take_length] at hall
    rw [txDump, runOps_txRd _ s fun k => List.mem_range.mp, ← length_txFrame, hall]
  · obtain ⟨hview, -⟩ := hs.view_ok
    rw [resDump, runOps_resRd _ s hview fun k => List.mem_range.mp,
      map_byteAt_range _ _ _ (by rwa [length_rxFrame])]

end Sys2Proof.Machine
end

section
/-! The exception-code validator as a lookup in EXC_MAP (30_encoding.md R100 to R102). -/

namespace Sys2Proof.Machine

/-- A byte with no entry is Unrecognized (30_encoding.md R101). -/
theorem excMember_of_not_mem {m : ExcMap} {b : Byte} (h : b ∉ m.map Prod.fst) : excMember m b = .unrecognized := by
  have hfind : m.find? (fun e => e.1 == b) = none :=
    List.find?_eq_none.mpr fun e he hb => h (eq_of_beq hb ▸ List.mem_map_of_mem he)
  rw [excMember, hfind]

/-- A byte with an entry stands for the member of one of its entries (30_encoding.md R101). -/
theorem mem_excMember {m : ExcMap} {b : Byte} (h : b ∈ m.map Prod.fst) : (b, excMember m b) ∈ m := by
  obtain ⟨e, he, rfl⟩ := List.mem_map.mp h
  have hsome : (m.find? fun f => f.1 == e.1).isSome := List.find?_isSome.mpr ⟨e, he, beq_self_eq_true e.1⟩
  obtain ⟨f, hf⟩ := Option.isSome_iff_exists.mp hsome
  have hkey : f.1 = e.1 := by simpa using List.find?_some hf
  rw [excMember, hf, ← hkey]
  exact List.mem_of_find?_eq_some hf

/-- With one entry per byte, a byte stands for the member of that entry (30_encoding.md R101). -/
theorem excMember_of_mem {m : ExcMap} (hkeys : (m.map Prod.fst).Nodup) {b : Byte} {x : Member} (h : (b, x) ∈ m) :
    excMember m b = x :=
  congrArg Prod.snd
    (List.inj_on_of_nodup_map hkeys (mem_excMember (List.mem_map_of_mem (f := Prod.fst) h)) h rfl)

/-- A byte that is not Unrecognized has an entry. -/
theorem mem_of_excMember_ne {m : ExcMap} {b : Byte} (h : excMember m b ≠ .unrecognized) : (b, excMember m b) ∈ m :=
  mem_excMember (not_not.mp fun hb => h (excMember_of_not_mem hb))

/-- Settles O37: the validator looks the byte up in a map that lists each byte and each member at most once. -/
theorem exceptionEnumerationIsClosed : Obligations.ExceptionEnumerationIsClosed := by
  rintro m ⟨haddress, hkeys, hmembers, -⟩
  refine ⟨excMember_of_mem hkeys haddress, fun b => toNat_memberId_le _, fun b => excMember_of_not_mem,
    fun b c hbc hne => ?_⟩
  have hb := mem_of_excMember_ne hne
  have hc := mem_of_excMember_ne (hbc ▸ hne)
  exact congrArg Prod.fst (List.inj_on_of_nodup_map hmembers hb hc hbc)

/-- Settles O38: the map after reset, evaluated at each of the 256 bytes. -/
theorem defaultExceptionNumbers : Obligations.DefaultExceptionNumbers := by
  unfold Obligations.DefaultExceptionNumbers
  decide +kernel

end Sys2Proof.Machine
end

section
/-! What each operation puts on the result stream (30_encoding.md R94, R98). -/

namespace Sys2Proof.Machine

/-- A read puts out one byte, or none when it raises (30_encoding.md R98). -/
theorem result_of_readOutcome {op : State → Result} {s t : State} (h : ReadOutcome op s t) :
    ∃ bs, t.result = s.result ++ bs ∧ (bs.length = 1 ∨ (bs = [] ∧ t.status = 0x32)) := by
  cases h with
  | index => exact ⟨[], (List.append_nil _).symm, .inr ⟨rfl, rfl⟩⟩
  | draw hc => exact ⟨_, rfl, .inl rfl⟩
  | byte v again => exact ⟨_, rfl, .inl rfl⟩

/-- CHECK puts out nothing (30_encoding.md R94). -/
theorem result_of_checkWith {minLength : Nat} {s t : State} (h : checkWith minLength s = .next t) :
    t.result = s.result := by
  rcases checkWith_cases h with
    ⟨-, rfl⟩ | ⟨-, ⟨c, -, -, -, rfl⟩ | ⟨c, -, -, -, rfl⟩ | ⟨-, rfl⟩ | ⟨off, len, -, -, -, rfl⟩⟩
  all_goals rfl

/-- A BUILD puts out nothing (30_encoding.md R94). The hypothesis is what both `execBuildRd_cases` and
`execBuildWr_cases` conclude. -/
theorem result_of_build {kind : RequestKind} {addr : Byte} {n : Nat} {start : Word} {bc : Byte} {frame : List Byte}
    {s t : State}
    (h : (∃ c, argCheck kind addr n = some c ∧
        t = { dropContext { clearResult s with txlen := 0 } with status := conditionCode c }) ∨
      (argCheck kind addr n = none ∧ t = latchRequest kind addr start bc frame s)) :
    t.result = s.result := by
  rcases h with ⟨c, -, rfl⟩ | ⟨-, rfl⟩ <;> rfl

/-- CRC.VERIFY puts out nothing (30_encoding.md R94). -/
theorem result_of_execCrcVerify {s t : State} (h : execCrcVerify s = .next t) : t.result = s.result := by
  cases (execCrcVerify_eq s).symm.trans h
  split <;> rfl

/-- RX.PUSH puts out nothing (30_encoding.md R94). -/
theorem result_of_execRxPush {b : Byte} {s t : State} (h : execRxPush b s = .next t) : t.result = s.result := by
  obtain ⟨-, rfl⟩ := execRxPush_cases h
  rfl

/-- An unchanged result stream has had no byte appended. -/
theorem exists_append_nil {s t : State} (h : t.result = s.result) :
    ∃ bs, t.result = s.result ++ bs ∧ bs = [] :=
  ⟨[], by rw [h, List.append_nil], rfl⟩

/-- Settles O47: by cases on the operation, from what each of them can answer. -/
theorem resultStreamGrowsByTheTable : Obligations.ResultStreamGrowsByTheTable := by
  intro i s t h
  cases i with
  | crcInit => cases h; exact exists_append_nil rfl
  | crcByte b => cases h; exact exists_append_nil rfl
  | crcRd => cases h; exact ⟨_, List.append_assoc _ _ _, rfl⟩
  | buildRd addr start bc => exact exists_append_nil (result_of_build (execBuildRd_cases h))
  | crcVerify => exact exists_append_nil (result_of_execCrcVerify h)
  | buildWr addr start data => exact exists_append_nil (result_of_build (execBuildWr_cases h))
  | rxClr => cases h; exact exists_append_nil rfl
  | rxPush b => exact exists_append_nil (result_of_execRxPush h)
  | txRd k => exact result_of_readOutcome (readOutcome_execTxRd h)
  | resRd k => exact result_of_readOutcome (readOutcome_execResRd h)
  | check => exact exists_append_nil (result_of_checkWith h)
  | excDec b => cases h; exact ⟨_, rfl, rfl⟩
  | statRd n => exact result_of_readOutcome (readOutcome_execStatRd h)

end Sys2Proof.Machine
end

section
/-! One iteration of the CRC: its low-bit test, its top bit, and what it does when the low bits are clear (40_crc.md
R122, R123). -/

namespace Sys2Proof.Machine

/-- The tested bit as a mask (40_crc.md R122). -/
theorem getLsbD_zero_iff (a : Word) : a.getLsbD 0 = true ↔ a &&& 1 = 1 := by
  rw [show (1 : Word) = 1#16 from rfl, BitVec.and_one_eq_setWidth_ofBool_getLsbD]
  cases a.getLsbD 0 <;> decide

/-- The iteration as R122 writes it, with the low bit tested by a mask. -/
theorem crcShift_eq_ite_and (a : Word) :
    crcShift a = if a &&& 1 = 1 then (a >>> 1) ^^^ 0xA001 else a >>> 1 :=
  if_congr (getLsbD_zero_iff a) rfl rfl

/-- An iteration shifts a 0 into bit 15, and 0xA001 has bit 15 set: the tested bit comes out there (40_crc.md R122). -/
theorem getLsbD_crcShift_top (a : Word) : (crcShift a).getLsbD 15 = a.getLsbD 0 := by
  have htop : (a >>> 1).getLsbD 15 = false := by simp
  have hpoly : crcPoly.getLsbD 15 = true := rfl
  unfold crcShift
  split
  · next h => rw [BitVec.getLsbD_xor, htop, hpoly, h]; rfl
  · next h => rw [htop, Bool.eq_false_iff.mpr h]

/-- With the low bit clear an iteration only shifts (40_crc.md R122). -/
theorem crcShift_of_even {a : Word} (h : a.getLsbD 0 = false) : crcShift a = a >>> 1 :=
  if_neg (Bool.eq_false_iff.mp h)

/-- `crcShifts` in the library's terms. -/
theorem crcShifts_eq_iterate (n : Nat) (a : Word) : crcShifts n a = crcShift^[n] a := by
  induction n generalizing a with
  | zero => rfl
  | succ n ih => exact ih (crcShift a)

/-- With the low `n` bits clear, `n` iterations only shift. -/
theorem crcShifts_of_low_clear {n : Nat} {a : Word} (h : ∀ i < n, a.getLsbD i = false) : crcShifts n a = a >>> n := by
  induction n generalizing a with
  | zero => simp [crcShifts]
  | succ n ih =>
    rw [crcShifts, crcShift_of_even (h 0 n.succ_pos), ih fun i hi => ?_, ← BitVec.shiftRight_add, Nat.add_comm]
    rw [BitVec.getLsbD_ushiftRight, h _ (by omega)]

/-- One byte: the XOR and eight iterations (40_crc.md R123). -/
theorem crcByte_eq_iterate (a : Word) (b : Byte) : crcByte a b = crcShift^[8] (a ^^^ b.setWidth 16) :=
  crcShifts_eq_iterate 8 _

/-- Settles O8: the iteration written with a mask is the model's, and `crcShifts` iterates it. -/
theorem crcByteMakesEightIterations : Obligations.CrcByteMakesEightIterations := by
  refine ⟨fun s b => rfl, fun a b => ?_, crcShift_eq_ite_and, getLsbD_crcShift_top⟩
  rw [crcByte_eq_iterate, funext crcShift_eq_ite_and]

end Sys2Proof.Machine
end

section
/-! The arithmetic laws of the CRC (40_crc.md R131). -/

namespace Sys2Proof.Machine

/-- The CRC reads ACC and the byte through their XOR alone (40_crc.md R131 (a)). -/
theorem crcByte_eq_crcByte_xor_zero (a : Word) (b : Byte) : crcByte a b = crcByte (a ^^^ b.setWidth 16) 0x00 := by
  simp [crcByte]

/-- Nothing but 0 is taken to 0: bit 15 of the result tells that the low bit was clear, and the shift loses no other
bit. -/
theorem eq_zero_of_crcShift_eq_zero {a : Word} (h : crcShift a = 0) : a = 0 := by
  have heven : a.getLsbD 0 = false := by rw [← getLsbD_crcShift_top, h]; rfl
  rw [crcShift_of_even heven] at h
  apply BitVec.eq_of_getLsbD_eq
  rintro (_ | i) -
  · simpa using heven
  · simpa [Nat.add_comm] using congrArg (BitVec.getLsbD · i) h

/-- By linearity, two values that an iteration takes to one differ by a value it takes to 0 (40_crc.md R131 (b)). -/
theorem injective_crcShift : Function.Injective crcShift := by
  intro a b h
  have hdiff : crcShift (a ^^^ b) = 0 := by rw [crcShift_xor, h, BitVec.xor_self]; rfl
  exact BitVec.xor_eq_zero_iff.mp (eq_zero_of_crcShift_eq_zero hdiff)

/-- An injection of the finitely many 16-bit values is a bijection (40_crc.md R131 (b)). -/
theorem bijective_crcShift : Function.Bijective crcShift :=
  have : Finite Word := Finite.of_equiv _ BitVec.equivFin.symm.toEquiv
  Finite.injective_iff_bijective.mp injective_crcShift

/-- The byte is undone by the same XOR, and the iterations are bijections (40_crc.md R131 (b)). -/
theorem bijective_crcByte (b : Byte) : Function.Bijective fun a => crcByte a b := by
  have hxor : Function.Involutive fun a : Word => a ^^^ b.setWidth 16 := fun a => by
    dsimp only
    rw [BitVec.xor_assoc, BitVec.xor_self, BitVec.xor_zero]
  rw [funext fun a => crcByte_eq_iterate a b]
  exact (bijective_crcShift.iterate 8).comp hxor.bijective

/-- Settles O11: from linearity, which also gives the bijections, and the continuation of the fold. -/
theorem crcArithmeticLaws : Obligations.CrcArithmeticLaws :=
  ⟨crcByte_eq_crcByte_xor_zero, bijective_crcShift, bijective_crcByte, crcByte_xor, rfl,
    crcFrom_append crcInitValue⟩

end Sys2Proof.Machine
end

section
/-! The CRC of a sequence, and of a frame that carries its own CRC (40_crc.md R124, R132, R133). -/

namespace Sys2Proof.Machine

/-- The CRC of a concatenation continues from that of the first part (40_crc.md R131 (d)). -/
theorem crc16_append (bs cs : List Byte) : crc16 (bs ++ cs) = crcFrom (crc16 bs) cs :=
  crcFrom_append crcInitValue bs cs

/-- Settles O9: by the definition of the fold, and its continuation by one byte. -/
theorem crcOfSequenceFoldsItsBytes : Obligations.CrcOfSequenceFoldsItsBytes :=
  ⟨rfl, fun bs b => crc16_append bs [b]⟩

/-- Settles O10: evaluated. -/
theorem canonicalVectorIsCB71 : Obligations.CanonicalVectorIsCB71 := by
  unfold Obligations.CanonicalVectorIsCB71
  decide +kernel

/-- The low byte of ACC cancels itself, and the iterations then shift the high byte down (40_crc.md R132). -/
theorem crcByte_crcLo (c : Word) : crcByte c (crcLo c) = (crcHi c).setWidth 16 := by
  have hclear : ∀ i < 8, (c ^^^ (crcLo c).setWidth 16).getLsbD i = false := fun i hi => by
    simp [crcLo, hi, show i < 16 by omega]
  rw [crcByte, crcShifts_of_low_clear hclear]
  apply BitVec.eq_of_getLsbD_eq
  intro i hi
  by_cases hlow : i < 8
  · simp [crcLo, crcHi, hi, hlow]
  · simp [crcLo, crcHi, hlow, BitVec.getLsbD_of_ge c (8 + i) (by omega)]

/-- A byte that is alone in ACC cancels itself (40_crc.md R132). -/
theorem crcByte_setWidth_self (b : Byte) : crcByte (b.setWidth 16) b = 0 := by
  rw [crcByte, BitVec.xor_self]
  rfl

/-- The residue of a frame that carries its CRC is 0 (40_crc.md R132). -/
theorem crc16_withCrc (m : List Byte) : crc16 (withCrc m) = 0 := by
  rw [withCrc, crc16_append, crcFrom_cons, crcFrom_cons, crcFrom_nil, crcByte_crcLo, crcByte_setWidth_self]

/-- Settles O12: from the round trip of the trailer and the residue. -/
theorem appendedCrcVerifiesWithZeroResidue : Obligations.AppendedCrcVerifiesWithZeroResidue :=
  fun m => ⟨(crcOk_eq_true_iff _).mp (crcOk_withCrc m), crcOk_withCrc m, crc16_withCrc m⟩

end Sys2Proof.Machine
end

section
/-! The operations of the CRC family (40_crc.md R126 to R130). -/

namespace Sys2Proof.Machine

/-- Settles O7: by the definition of CRC.INIT. -/
theorem crcInitSetsAccumulator : Obligations.CrcInitSetsAccumulator := fun _ => rfl

/-- Two bytes put out one after the other (10_state.md R40). -/
theorem out_out (v w : Byte) (s : State) : out w (out v s) = { s with result := s.result ++ [v, w] } := by
  rw [out, out, List.append_assoc, List.singleton_append]

/-- Settles O13: CRC.RD puts out the two bytes one after the other. -/
theorem crcReadPutsOutLowByteFirst : Obligations.CrcReadPutsOutLowByteFirst := fun s =>
  congrArg Host.Outcome.next (out_out (crcLo s.acc) (crcHi s.acc) s)

/-- The CRC comparison as a decision (43_check.md R182). -/
theorem crcOk_eq_decide (r : List Byte) : crcOk r = decide (TrailerOk r) := by
  rw [Bool.eq_iff_iff, crcOk_eq_true_iff, decide_eq_true_iff]

/-- The bytes of the valid response that the comparison covers (40_crc.md R129). -/
theorem frameBody_rxFrame (s : State) : frameBody (rxFrame s) = (rxFrame s).take (s.rxlen.toNat - 2) := by
  rw [frameBody, length_rxFrame]

/-- Settles O14: the two things CRC.VERIFY can answer, with the comparison as a decision. -/
theorem crcVerifyComparesTheTrailer : Obligations.CrcVerifyComparesTheTrailer := by
  intro s
  rw [exec, execCrcVerify_eq]
  refine ⟨fun h => ?_, fun h => ?_⟩
  · rw [if_pos h]
  · rw [if_neg (by omega), compareCrc, crcOk_eq_decide, frameBody_rxFrame]

/-- A run of CRC.BYTE continues the calculation in ACC over its bytes and changes nothing else (40_crc.md R127). -/
theorem runOps_crcByte (bs : List Byte) (s : State) :
    runOps (bs.map .crcByte) s = .next { s with acc := crcFrom s.acc bs } := by
  induction bs generalizing s with
  | nil => rfl
  | cons b bs ih => exact ih { s with acc := crcByte s.acc b }

/-- Settles O15: CRC.INIT, and then the run of CRC.BYTE from its value. -/
theorem crcCalcLeavesTheCrc : Obligations.CrcCalcLeavesTheCrc :=
  fun bs s => runOps_crcByte bs { s with acc := crcInitValue }

end Sys2Proof.Machine
end

section
/-! The argument checks, and what a BUILD leaves for arguments that pass them and for arguments that do not
(41_build.md R141, R151). -/

namespace Sys2Proof.Machine

/-- Arguments that do not pass are reported with the code of the first check that fails (41_build.md R141). -/
theorem argCheck_of_not_ok {kind : RequestKind} {addr : Byte} {n : Nat}
    (h : ¬ (AddressOk addr ∧ CountOk (maxBytes kind) n)) :
    ∃ c, argCheck kind addr n = some c ∧ conditionCode c = argumentCode addr n := by
  unfold argumentCode
  by_cases haddr : AddressOk addr
  · rw [if_neg (not_not_intro haddr)]
    split
    · next hn => exact ⟨_, argCheck_empty haddr hn, rfl⟩
    split
    · next hodd => exact ⟨_, argCheck_odd haddr hodd, rfl⟩
    · exact ⟨_, argCheck_tooLong haddr (by omega) (by omega), rfl⟩
  · rw [if_pos haddr]
    exact ⟨_, argCheck_address haddr, rfl⟩

/-- An operation that takes an argument error when a check fails, and is built when none does, reports the checks in
their order (41_build.md R141). The hypotheses are the `_of_some` and `_of_none` lemmas of either BUILD. -/
theorem build_checks {kind : RequestKind} {addr : Byte} {n : Nat} {op : Result} {s t : State}
    (hfail : ∀ c, argCheck kind addr n = some c → op = .next (rejected (conditionCode c) s))
    (hok : argCheck kind addr n = none → op = .next t) (ht : t.status = 0x01) :
    (¬ AddressOk addr → op = .next (rejected 0x10 s)) ∧
    (AddressOk addr → n = 0 → op = .next (rejected 0x11 s)) ∧
    (AddressOk addr → n % 2 = 1 → op = .next (rejected 0x12 s)) ∧
    (AddressOk addr → n % 2 = 0 → maxBytes kind < n → op = .next (rejected 0x13 s)) ∧
    (AddressOk addr → CountOk (maxBytes kind) n → ∃ u, op = .next u ∧ u.status = 0x01) :=
  ⟨fun haddr => hfail _ (argCheck_address haddr),
    fun haddr hempty => hfail _ (argCheck_empty haddr hempty),
    fun haddr hodd => hfail _ (argCheck_odd haddr hodd),
    fun haddr heven hlong => hfail _ (argCheck_tooLong haddr heven hlong),
    fun haddr hcount => ⟨t, hok ((argCheck_eq_none_iff kind addr n).mpr ⟨haddr, hcount⟩), ht⟩⟩

/-- Settles O16: both BUILDs make the same checks, each up to its own bound. -/
theorem buildChecksArgumentsInOrder : Obligations.BuildChecksArgumentsInOrder := by
  refine fun s addr start => ⟨fun bc => ?_, fun data _ => ?_⟩
  · exact build_checks (kind := .read) (fun _ => execBuildRd_of_some) execBuildRd_of_none rfl
  · exact build_checks (kind := .write) (fun _ => execBuildWr_of_some) execBuildWr_of_none rfl

/-- Settles O20: TXLEN 0 leaves no index to read, and CTXV 0 no request to check a response against. -/
theorem rejectedBuildLeavesNothingToUse : Obligations.RejectedBuildLeavesNothingToUse := by
  intro s code
  have hread (i : Byte) : execTxRd i (rejected code s) = .next (rejected 0x32 s) := by
    have hno : ¬ i.toNat < (rejected code s).txlen.toNat := Nat.not_lt_zero _
    rw [execTxRd_eq, if_neg hno]
  have hcheck : execCheck (rejected code s) = .next (rejected 0x30 s) := checkWith_of_no_context rfl
  exact ⟨hread, hcheck⟩

end Sys2Proof.Machine
end

section
/-! The frame that an accepted BUILD puts into TXBUF, and the request it latches (41_build.md R143 to R152). -/

namespace Sys2Proof.Machine

/-- The read request with its count written out: the high byte of the count is 0 (41_build.md R143). -/
theorem readRequest_eq (addr : Byte) (start : Word) (bc : Byte) :
    readRequest addr start bc =
      withCrc [addr, 0x04, beHi start, beLo start, 0x00, BitVec.ofNat 8 (bc.toNat / 2)] := by
  rw [readRequest, beHi_registerCount (by omega), beLo_registerCount]
  rfl

/-- The write request with its count written out (41_build.md R149). -/
theorem writeRequest_eq (addr : Byte) (start : Word) {data : List Byte} (h : data.length ≤ 255) :
    writeRequest addr start data =
      withCrc ([addr, 0x10, beHi start, beLo start, 0x00, BitVec.ofNat 8 (data.length / 2),
        BitVec.ofNat 8 data.length] ++ data) := by
  rw [writeRequest, beHi_registerCount h, beLo_registerCount]
  rfl

/-- The response length a read expects, as one sum (41_build.md R145). -/
theorem expectedLength_read {bc : Byte} (h : bc.toNat ≤ 250) :
    expectedLength .read bc = BitVec.ofNat 8 (5 + bc.toNat) := by
  apply BitVec.eq_of_toNat_eq
  rw [toNat_expectedLength_read h, BitVec.toNat_ofNat]
  omega

/-- Everything latching a message with its CRC writes: ACC is left with that CRC (41_build.md R144, R150). -/
theorem latchRequest_withCrc (kind : RequestKind) (addr : Byte) (start : Word) (bc : Byte) (m : List Byte)
    (s : State) :
    latchRequest kind addr start bc (withCrc m) s = { s with
      txbuf := Memory.writeFrom s.txbuf 0 (withCrc m), txlen := BitVec.ofNat 8 (m.length + 2)
      acc := crc16 m, reqAddr := addr, reqFunc := functionCode kind, reqStart := start, reqBc := bc
      explen := expectedLength kind bc, ctxv := true, status := 0x01, doff := 0, dlen := 0, exc := 0, excm := 0 } := by
  rw [← frameCrc_withCrc m, ← length_withCrc m]
  rfl

/-- Settles O17: the frame with its count written out, latched; every other argument triple is an argument error. -/
theorem buildReadAssemblesAndLatches : Obligations.BuildReadAssemblesAndLatches := by
  intro s addr start bc hw
  refine ⟨fun hok => ?_, fun hbad => ?_⟩
  · have ⟨_, _, _, hbc⟩ := hok
    have hl : (readRequest addr start bc).length ≤ 255 := by simp
    refine ⟨_, execBuildRd_of_none ((argCheck_eq_none_iff ..).mpr hok), ⟨?_, ?_⟩, ?_, fun a ha => ?_⟩
    · rw [txFrame_latchRequest hw hl, readRequest_eq]
      rfl
    · rw [readRequest_eq, ← expectedLength_read hbc]
      exact latchRequest_withCrc ..
    · rw [latchRequest_explen, toNat_expectedLength_read hbc]
      omega
    · exact read_latchRequest hw hl (by rwa [length_readRequest])
  · obtain ⟨c, hc, hcode⟩ := argCheck_of_not_ok (kind := .read) hbad
    rw [← hcode]
    exact execBuildRd_of_some hc

/-- Settles O18: the frame with its count written out, latched; every other payload is an argument error. -/
theorem buildWriteAssemblesAndLatches : Obligations.BuildWriteAssemblesAndLatches := by
  intro s addr start data hw
  refine ⟨fun hok => ?_, fun _ hbad => ?_⟩
  · have ⟨_, _, _, hn⟩ := hok
    have hl : (writeRequest addr start data).length ≤ 255 := by rw [length_writeRequest]; omega
    refine ⟨_, execBuildWr_of_none ((argCheck_eq_none_iff ..).mpr hok), ⟨?_, ?_⟩, ?_, fun a ha => ?_⟩
    · rw [txFrame_latchRequest hw hl, writeRequest_eq addr start (by omega)]
      rfl
    · rw [← length_writeRequest addr start data, writeRequest_eq addr start (by omega), length_withCrc]
      exact latchRequest_withCrc ..
    · rw [latchRequest_txlen, length_writeRequest, BitVec.toNat_ofNat]
      omega
    · exact read_latchRequest hw hl (by rwa [length_writeRequest])
  · obtain ⟨c, hc, hcode⟩ := argCheck_of_not_ok (kind := .write) hbad
    rw [← hcode]
    exact execBuildWr_of_some hc

/-- A message with its CRC appended carries its own CRC (30_encoding.md R92; 40_crc.md R132). -/
theorem trailerOk_withCrc (m : List Byte) : TrailerOk (withCrc m) :=
  (crcOk_eq_true_iff _).mp (crcOk_withCrc m)

/-- Settles O19: both frames are a message with its CRC appended, and fit TXBUF. -/
theorem builtFrameVerifies : Obligations.BuiltFrameVerifies := by
  intro s addr start hw haddr
  refine ⟨fun bc hcount => ?_, fun data hcount => ?_⟩
  · refine ⟨_, execBuildRd_of_none ((argCheck_eq_none_iff ..).mpr ⟨haddr, hcount⟩), ?_⟩
    rw [txFrame_latchRequest hw (by simp)]
    exact trailerOk_withCrc _
  · have ⟨_, _, hn⟩ := hcount
    refine ⟨_, execBuildWr_of_none ((argCheck_eq_none_iff ..).mpr ⟨haddr, hcount⟩), ?_⟩
    rw [txFrame_latchRequest hw (by rw [length_writeRequest]; omega)]
    exact trailerOk_withCrc _

end Sys2Proof.Machine
end

section
/-! The buffer operations (42_buffers.md R161 to R164), and which of them can end a run. -/

namespace Sys2Proof.Machine

/-- Settles O21: RXLEN 0 leaves no valid response byte. -/
theorem rxClrEmptiesTheBuffer : Obligations.RxClrEmptiesTheBuffer := fun _ => ⟨rfl, rfl⟩

/-- RX.PUSH on a full buffer is refused (42_buffers.md R162, log 8). -/
theorem execRxPush_of_full {b : Byte} {s : State} (h : s.rxlen.toNat = 255) :
    execRxPush b s = .refused .rxBufferFull :=
  if_pos (BitVec.eq_of_toNat_eq h)

/-- Settles O22: RX.PUSH writes one byte of RXBUF, the one that follows the valid response. -/
theorem rxPushAppendsOrIsRefused : Obligations.RxPushAppendsOrIsRefused := by
  refine fun s b hw => ⟨execRxPush_of_full, fun hne => ?_⟩
  have hlt : s.rxlen.toNat < 255 := by omega
  have hlen := toNat_rxlen_succ hlt
  refine ⟨_, execRxPush_of_lt hlt, ?_, hlen, ?_, ?_, fun a ha => ?_⟩
  · rw [← hlen, BitVec.ofNat_toNat, BitVec.setWidth_eq]
    rfl
  · rw [rxFrame, hlen]
    exact readRange_push hw _ b
  · rw [Memory.read_write hw, if_pos rfl]
  · rw [Memory.read_write hw, if_neg ha]

/-- Settles O23: the two things TX.RD can answer. -/
theorem txRdReadsTheFrame : Obligations.TxRdReadsTheFrame := by
  intro s i
  rw [exec, execTxRd_eq]
  refine ⟨fun hi => ?_, fun hi => ?_⟩
  · rw [if_pos hi, out]
  · rw [if_neg (by omega)]

/-- An index below DLEN lies inside the valid response (10_state.md R44). -/
theorem lt_rxlen_of_lt_dlen {s : State} (h : s.Inv) {i : Nat} (hi : i < s.dlen.toNat) :
    s.doff.toNat + i < s.rxlen.toNat := by
  obtain ⟨hview, -⟩ := h.view_ok
  omega

/-- Settles O24: under the invariant RES.RD never reads past the valid response. -/
theorem resRdReadsTheResult : Obligations.ResRdReadsTheResult := by
  intro s i h
  rw [exec, execResRd_eq]
  refine ⟨fun hi => ?_, fun hi => ?_⟩
  · have hlt := lt_rxlen_of_lt_dlen h hi
    rw [if_neg (by omega), if_neg (by omega), out]
    exact ⟨hlt, rfl⟩
  · rw [if_pos hi]

/-- Settles O44: of the two ways an operation can stop, the invariant rules out the read past the valid response. -/
theorem onlyAFullPushStops : Obligations.OnlyAFullPushStops := by
  intro s h
  cases hd : decode s.cmdIn with
  | command i rest =>
    rw [step_of_command hd]
    rcases exec_next_or_stop i (consumeTo rest s) with hnext | ⟨b, rfl, hfull, hx⟩ | ⟨k, -, hk, hpast, -⟩
    · exact .inl hnext
    · exact .inr ⟨b, rest, rfl, congrArg BitVec.toNat hfull, hx⟩
    · exact absurd (lt_rxlen_of_lt_dlen h hk) (Nat.not_lt_of_le hpast)
  | illegal op rest => exact .inl ⟨_, step_of_illegal hd⟩
  | incomplete => exact .inl ⟨_, step_of_incomplete hd⟩

end Sys2Proof.Machine
end

section
/-! What CHECK leaves, as a function of its verdict: the one form that the statements about CHECK use (43_check.md
R171, R182). -/

namespace Sys2Proof.Machine

/-- The verdict of CHECK in any state: that of the selected validator, or the missing request (43_check.md R171). -/
def checkVerdict (minLength : Nat) (s : State) : Verdict :=
  if s.ctxv then judge minLength s else .err .noCtx

/-- The registers that every CHECK writes: STATUS, the result registers and the view (43_check.md R171). -/
structure ReportRegisters where
  status : Byte
  exc : Byte
  excm : Byte
  doff : Byte
  dlen : Byte

/-- What a verdict leaves in them under an `EXC_MAP` (43_check.md R171). -/
def reportRegisters (m : ExcMap) : Verdict → ReportRegisters
  | .success off len => { status := 0x02, exc := 0, excm := 0, doff := off, dlen := len }
  | .devExc raw => { status := 0x03, exc := raw, excm := memberId (excMember m raw), doff := 0, dlen := 0 }
  | .err c => { status := conditionCode c, exc := 0, excm := 0, doff := 0, dlen := 0 }

/-- What a CHECK with a given verdict leaves: the registers above and, from S6 on, ACC and CRCOK (43_check.md R171,
R182). -/
def checked (v : Verdict) (s : State) : State :=
  { s with
    status := (reportRegisters s.cfg.excMap v).status
    exc := (reportRegisters s.cfg.excMap v).exc
    excm := (reportRegisters s.cfg.excMap v).excm
    doff := (reportRegisters s.cfg.excMap v).doff
    dlen := (reportRegisters s.cfg.excMap v).dlen
    acc := if reachedCrcStage v then crc16 (frameBody (rxFrame s)) else s.acc
    crcok := if reachedCrcStage v then crcOk (rxFrame s) else s.crcok }

/-- Everything CHECK can answer, in every state (43_check.md R171). -/
theorem checkWith_eq_checked (minLength : Nat) (s : State) :
    checkWith minLength s = .next (checked (checkVerdict minLength s) s) := by
  unfold checkVerdict
  cases hc : s.ctxv with
  | false => exact checkWith_of_no_context hc
  | true =>
    rw [if_pos rfl]
    cases hj : judge minLength s with
    | success off len => exact checkWith_of_success hc hj
    | devExc raw => exact checkWith_of_devExc hc hj
    | err c =>
      cases hr : reachedCrcStage (.err c) with
      | false => rw [checkWith_of_early hc hj hr, checked, hr]; rfl
      | true => rw [checkWith_of_late hc hj hr, checked, hr]; rfl

/-- CHECK with a request latched (43_check.md R171). -/
theorem checkWith_eq_checked_judge {minLength : Nat} {s : State} (h : s.ctxv = true) :
    checkWith minLength s = .next (checked (judge minLength s) s) := by
  rw [checkWith_eq_checked, checkVerdict, if_pos h]

/-- A condition at or after S6, with the comparison's answer given (43_check.md R182). -/
theorem checked_err_late {c : Condition} {s : State} {ok : Bool} (hr : reachedCrcStage (.err c) = true)
    (hok : crcOk (rxFrame s) = ok) : checked (.err c) s = compared (rxFrame s) ok (conditionCode c) s := by
  rw [checked, hr, hok]
  rfl

/-- A success, whose comparison matched (43_check.md R184, R185). -/
theorem checked_success {off len : Byte} {s : State} (hok : crcOk (rxFrame s) = true) :
    checked (.success off len) s = { compared (rxFrame s) true 0x02 s with doff := off, dlen := len } := by
  rw [checked, hok]
  rfl

/-- CHECK reads nothing that it writes: with the same verdict again it changes nothing (43_check.md R186). -/
theorem checked_checked (v : Verdict) (s : State) : checked v (checked v s) = checked v s := by
  cases hr : reachedCrcStage v <;> simp only [checked, hr] <;> rfl

/-- The verdict is a function of CTXV, the context and the valid response (43_check.md R186). -/
theorem checkVerdict_congr {minLength : Nat} {s t : State} (hc : s.ctxv = t.ctxv) (ha : s.reqAddr = t.reqAddr)
    (hf : s.reqFunc = t.reqFunc) (hs : s.reqStart = t.reqStart) (hb : s.reqBc = t.reqBc)
    (hr : rxFrame s = rxFrame t) : checkVerdict minLength s = checkVerdict minLength t := by
  rw [checkVerdict, checkVerdict, hc, judge_congr ha hf hs hb hr]

end Sys2Proof.Machine
end

section
/-! The stages of the two validators in order, with everything each outcome writes (43_check.md R171, R176, R180). -/

namespace Sys2Proof.Machine

/-- The comparison fails on the frames whose trailing two bytes are not their CRC (43_check.md R182). -/
theorem crcOk_eq_false_iff (r : List Byte) : crcOk r = false ↔ ¬ TrailerOk r := by
  rw [crcOk_eq_decide, decide_eq_false_iff_not]

/-- `write_min_len` as a number (92_eei_decisions.md D9). -/
theorem minWriteLength_eq (w : WriteMinLen) : minWriteLength w = if w = .eight then 8 else 5 := by
  cases w <;> rfl

/-- Settles O29: the validators are not reached. -/
theorem checkWithoutRequestRaises : Obligations.CheckWithoutRequestRaises :=
  fun _ h => checkWith_of_no_context h

/-- Settles O30: the six stages before S6 write the result registers alone; after them the comparison decides. -/
theorem checkReadRunsItsStages : Obligations.CheckReadRunsItsStages := by
  intro s hc hf
  refine (checkWith_eq_checked_judge hc).trans (congrArg _ ?_)
  simp only [judge_read hf, crcOk_eq_false_iff]
  iterate 6
    split
    · rfl
  split
  · next hbad => exact checked_err_late rfl ((crcOk_eq_false_iff _).mpr hbad)
  · next hok => exact checked_success ((crcOk_eq_true_iff _).mpr (not_not.mp hok))

/-- Settles O31: the five stages before S6 write the result registers alone; the echo stage comes after the
comparison and finds CRCOK set. -/
theorem checkWriteRunsItsStages : Obligations.CheckWriteRunsItsStages := by
  intro s hc hf
  refine (checkWith_eq_checked_judge hc).trans (congrArg _ ?_)
  have hwrite : s.reqFunc ≠ 0x04 := by rw [hf]; decide
  rw [← minWriteLength_eq]
  simp only [judge_write hwrite, crcOk_eq_false_iff]
  iterate 5
    split
    · rfl
  split
  · next hbad => exact checked_err_late rfl ((crcOk_eq_false_iff _).mpr hbad)
  next hok =>
  have hcrc := (crcOk_eq_true_iff _).mpr (not_not.mp hok)
  split
  · exact checked_err_late rfl hcrc
  · exact checked_success hcrc

end Sys2Proof.Machine
end

section
/-! The CRC stage S6: which outcomes reach it, and what it tells them apart by (43_check.md R182, R186). -/

namespace Sys2Proof.Machine

/-- The conditions that are found at S6 or after it, by their codes (43_check.md R182). -/
theorem conditionCode_mem_crcStage (c : Condition) :
    conditionCode c ∈ ([0x02, 0x25, 0x26] : List Byte) ↔ reachedCrcStage (.err c) = true := by
  cases c <;> decide

/-- STATUS tells whether a CHECK reached S6 (43_check.md R182). -/
theorem status_checked_mem_crcStage (v : Verdict) (s : State) :
    (checked v s).status ∈ ([0x02, 0x25, 0x26] : List Byte) ↔ reachedCrcStage v = true := by
  cases v with
  | success off len => exact iff_of_true List.mem_cons_self rfl
  | devExc raw => exact iff_of_false (by change (0x03 : Byte) ∉ _; decide) nofun
  | err c => exact conditionCode_mem_crcStage c

/-- Only ERR_CRC has the code 0x25 (60_exceptions.md R232). -/
theorem conditionCode_eq_crc_iff (c : Condition) : conditionCode c = 0x25 ↔ c = .crc := by
  cases c <;> decide

/-- STATUS tells whether the verdict is ERR_CRC (43_check.md R182). -/
theorem status_checked_eq_crc_iff (v : Verdict) (s : State) : (checked v s).status = 0x25 ↔ v = .err .crc := by
  cases v with
  | success off len => exact iff_of_false (by change (0x02 : Byte) ≠ _; decide) nofun
  | devExc raw => exact iff_of_false (by change (0x03 : Byte) ≠ _; decide) nofun
  | err c => exact (conditionCode_eq_crc_iff c).trans (by rw [Verdict.err.injEq])

/-- From S6 on ACC and CRCOK hold the comparison (43_check.md R182). -/
theorem checked_of_reached {v : Verdict} (h : reachedCrcStage v = true) (s : State) :
    (checked v s).acc = crc16 (frameBody (rxFrame s)) ∧ (checked v s).crcok = crcOk (rxFrame s) :=
  ⟨if_pos h, if_pos h⟩

/-- Before S6 ACC and CRCOK stay as they were (43_check.md R182). -/
theorem checked_of_not_reached {v : Verdict} (h : ¬ reachedCrcStage v = true) (s : State) :
    (checked v s).acc = s.acc ∧ (checked v s).crcok = s.crcok :=
  ⟨if_neg h, if_neg h⟩

/-- What a verdict on a frame must satisfy if it reached S6: it is ERR_CRC exactly when the comparison fails. -/
def CrcStageDecides (r : List Byte) (v : Verdict) : Prop :=
  reachedCrcStage v = true → (v = .err .crc ↔ crcOk r = false)

/-- A verdict before S6 has nothing to satisfy. -/
theorem crcStageDecides_early {r : List Byte} {v : Verdict} (h : reachedCrcStage v = false) : CrcStageDecides r v :=
  fun h' => absurd (h.symm.trans h') (by decide)

/-- The read validator: six stages, then S6 (43_check.md R176). -/
theorem crcStageDecides_checkRead (ctx : RequestContext) (r : List Byte) : CrcStageDecides r (checkRead ctx r) := by
  unfold checkRead
  iterate 6
    split
    · exact crcStageDecides_early rfl
  split
  · next hbad => exact fun _ => iff_of_true rfl hbad
  · next hok => exact fun _ => iff_of_false nofun hok

/-- The write validator: five stages, then S6, then the echo (43_check.md R180). -/
theorem crcStageDecides_checkWrite (minLength : Nat) (ctx : RequestContext) (r : List Byte) :
    CrcStageDecides r (checkWrite minLength ctx r) := by
  unfold checkWrite
  iterate 5
    split
    · exact crcStageDecides_early rfl
  split
  · next hbad => exact fun _ => iff_of_true rfl hbad
  next hok =>
  split
  · exact fun _ => iff_of_false nofun hok
  · exact fun _ => iff_of_false nofun hok

/-- CHECK in every state (43_check.md R171, R182). -/
theorem crcStageDecides_checkVerdict (minLength : Nat) (s : State) :
    CrcStageDecides (rxFrame s) (checkVerdict minLength s) := by
  unfold checkVerdict judge
  split
  · split
    · exact crcStageDecides_checkRead _ _
    · exact crcStageDecides_checkWrite _ _ _
  · exact crcStageDecides_early rfl

/-- Settles O33: STATUS tells whether S6 was reached, and which way its comparison went. -/
theorem crcStageWritesAccAndCrcok : Obligations.CrcStageWritesAccAndCrcok := by
  intro s
  refine ⟨_, checkWith_eq_checked _ s, fun hmem => ?_, fun hmem => ?_⟩
  · have hreached := (status_checked_mem_crcStage _ s).mp hmem
    obtain ⟨hacc, hcrcok⟩ := checked_of_reached hreached s
    refine ⟨hacc.trans (congrArg crc16 (frameBody_rxFrame s)), hcrcok.trans (crcOk_eq_decide _), ?_⟩
    rw [hcrcok, status_checked_eq_crc_iff]
    exact crcStageDecides_checkVerdict _ s hreached
  · exact checked_of_not_reached (mt (status_checked_mem_crcStage _ s).mpr hmem) s

/-- Settles O32: the verdict and the comparison read nothing that a CHECK writes. -/
theorem checkIsRepeatable : Obligations.CheckIsRepeatable := by
  refine ⟨fun s t h => ?_, fun s s' t t' h h' hcfg hc ha hf hs hb hr => ?_⟩
  · cases (checkWith_eq_checked _ s).symm.trans h
    refine ⟨rfl, fun hmem => checked_of_not_reached (mt (status_checked_mem_crcStage _ s).mpr hmem) s, ?_⟩
    exact (checkWith_eq_checked _ _).trans (congrArg _ (checked_checked _ s))
  · have hv : checkVerdict (minWriteLength s.cfg.writeMinLen) s =
        checkVerdict (minWriteLength s'.cfg.writeMinLen) s' := by
      rw [hcfg, checkVerdict_congr hc ha hf hs hb hr]
    cases (checkWith_eq_checked _ s).symm.trans h
    cases (checkWith_eq_checked _ s').symm.trans h'
    rw [← hv]
    generalize checkVerdict (minWriteLength s.cfg.writeMinLen) s = v
    have hregs : reportRegisters s.cfg.excMap v = reportRegisters s'.cfg.excMap v := by rw [hcfg]
    refine ⟨congrArg (·.status) hregs, congrArg (·.exc) hregs, congrArg (·.excm) hregs, congrArg (·.doff) hregs,
      congrArg (·.dlen) hregs, fun hmem => ?_⟩
    have hreached := (status_checked_mem_crcStage v s).mp hmem
    obtain ⟨hacc, hcrcok⟩ := checked_of_reached hreached s
    obtain ⟨hacc', hcrcok'⟩ := checked_of_reached hreached s'
    rw [hacc, hcrcok, hacc', hcrcok', hr]
    exact ⟨rfl, rfl⟩

end Sys2Proof.Machine
end

section
/-! Two whole classes of responses, and EXC.DEC (43_check.md R175, R183, R187, R189, R190). -/

namespace Sys2Proof.Machine

/-- The exception bit comes third, after the minimum length and the address, in both validators (43_check.md R175). -/
theorem judge_of_exception {minLength : Nat} {s : State}
    (hlen : s.reqFunc = 0x04 ∧ 5 ≤ s.rxlen.toNat ∨ s.reqFunc = 0x10 ∧ minLength ≤ s.rxlen.toNat)
    (haddr : byteAt (rxFrame s) 0 = s.reqAddr) (hbit : (byteAt (rxFrame s) 1).getLsbD 7 = true) :
    judge minLength s = .devExc (byteAt (rxFrame s) 2) := by
  have hbit' := (bit7_iff _).mp hbit
  rcases hlen with ⟨hf, hl⟩ | ⟨hf, hl⟩
  · rw [judge_read hf, if_neg (by omega), if_neg (not_not_intro haddr), if_pos hbit']
  · rw [judge_write (by rw [hf]; decide), if_neg (by omega), if_neg (not_not_intro haddr), if_pos hbit']

/-- Settles O34: the verdict is a device exception, and every admissible EXC_MAP lists 0x02. -/
theorem exceptionBitEndsValidation : Obligations.ExceptionBitEndsValidation := by
  intro s hc hlen haddr hbit
  rw [← minWriteLength_eq] at hlen
  refine ⟨checkWith_of_devExc hc (judge_of_exception hlen haddr hbit), ?_⟩
  rintro hraw ⟨haddress, hkeys, -⟩
  rw [hraw, excMember_of_mem hkeys haddress]
  rfl

/-- A write response that passes each stage is accepted: no stage reads another byte (43_check.md R180, R183). -/
theorem judge_write_success {minLength : Nat} {s : State} (hf : s.reqFunc = 0x10) (hmin : minLength ≤ 8)
    (hl : 8 ≤ s.rxlen.toNat) (haddr : byteAt (rxFrame s) 0 = s.reqAddr) (hfunc : byteAt (rxFrame s) 1 = 0x10)
    (hcrc : crcOk (rxFrame s) = true) (hecho : byteAt (rxFrame s) 2 ++ byteAt (rxFrame s) 3 = s.reqStart) :
    judge minLength s = .success 2 4 := by
  rw [judge_write (by rw [hf]; decide), if_neg (by omega), if_neg (not_not_intro haddr),
    if_neg (by rw [hfunc]; decide), if_neg (not_not_intro hfunc), if_neg (by omega), if_neg (by rw [hcrc]; decide),
    if_neg (not_not_intro hecho)]

/-- `write_min_len` is at most 8 (92_eei_decisions.md D9). -/
theorem minWriteLength_le (w : WriteMinLen) : minWriteLength w ≤ 8 := by
  cases w <;> decide

/-- Settles O35: no stage reads the echoed count or the bytes between it and the CRC. -/
theorem echoedCountIsNotChecked : Obligations.EchoedCountIsNotChecked := by
  intro s c d extra hc hf m hm
  have hframe : rxFrame s = withCrc m := hm
  have hl : 8 ≤ s.rxlen.toNat := by rw [← length_rxFrame, hframe, length_withCrc]; simp [m]
  have hecho : byteAt (rxFrame s) 2 ++ byteAt (rxFrame s) 3 = s.reqStart := by
    rw [hframe]
    exact be16_beHi_beLo s.reqStart
  have hj := judge_write_success hf (minWriteLength_le s.cfg.writeMinLen) hl (by rw [hframe]; rfl)
    (by rw [hframe]; rfl) (by rw [hframe, crcOk_withCrc]) hecho
  refine (checkWith_of_success hc hj).trans ?_
  rw [hframe, compareCrc, frameBody_withCrc, crcOk_withCrc]
  rfl

/-- Settles O36: by the definition of EXC.DEC. -/
theorem excDecClassifiesTheByte : Obligations.ExcDecClassifiesTheByte := fun _ _ => rfl

end Sys2Proof.Machine
end

section
/-! What loading a response, checking it and concluding leave, as functions of the state before (44_transaction.md
R211). -/

namespace Sys2Proof.Machine

/-- Bytes put on the result stream (10_state.md R40). -/
def outAll (bs : List Byte) (s : State) : State := { s with result := s.result ++ bs }

@[simp] theorem outAll_nil (s : State) : outAll [] s = s := by simp [outAll]

/-- Everything collected from a run that only puts bytes out. -/
theorem collectOutput_of_outAll {ops : List Instr} {s : State} {bs : List Byte}
    (h : runOps ops s = .next (outAll bs s)) : collectOutput ops s = .next (outAll bs s, bs) := by
  simp [collectOutput, h, andThen, outAll]

/-- TX.DUMP as a transaction makes it (44_transaction.md R211). -/
theorem collectOutput_txDump (s : State) : collectOutput (txDump s) s = .next (outAll (txFrame s) s, txFrame s) :=
  collectOutput_of_outAll (dumpsPutOutFrameAndData.1 s)

/-- The result data as a part of the valid response (10_state.md R35). -/
theorem resultData_eq {s : State} (h : s.doff.toNat + s.dlen.toNat ≤ s.rxlen.toNat) :
    resultData s = ((rxFrame s).drop s.doff.toNat).take s.dlen.toNat := by
  apply List.ext_getElem?
  intro j
  rw [resultData, rxFrame, List.getElem?_take, List.getElem?_drop, Memory.getElem?_readRange,
    Memory.getElem?_readRange, Nat.zero_add]
  split
  · rw [if_pos (by omega)]
  · rfl

/-- RES.DUMP of a view inside the valid response puts out the result data (30_encoding.md R104). -/
theorem collectOutput_resDump {s : State} (h : s.doff.toNat + s.dlen.toNat ≤ s.rxlen.toNat) :
    collectOutput (resDump s) s = .next (outAll (resultData s) s, resultData s) := by
  refine collectOutput_of_outAll ?_
  rw [resultData_eq h, resDump, runOps_resRd _ s h fun k => List.mem_range.mp,
    map_byteAt_range _ _ _ (by rwa [length_rxFrame])]
  rfl

/-! ### RX.LOAD -/

/-- What RX.LOAD leaves (30_encoding.md R104). -/
def loaded (bs : List Byte) (s : State) : State :=
  { clearView s with rxbuf := Memory.writeFrom s.rxbuf 0 bs, rxlen := BitVec.ofNat 8 bs.length }

/-- A run of RX.PUSH that fits stores its bytes one after another, whatever RXBUF holds (42_buffers.md R162). -/
theorem runOps_rxPush_eq_writeFrom {bs : List Byte} {s : State} (hl : s.rxlen.toNat + bs.length ≤ 255) :
    runOps (bs.map .rxPush) (clearView s) = .next { clearView s with
      rxbuf := Memory.writeFrom s.rxbuf s.rxlen.toNat bs
      rxlen := BitVec.ofNat 8 (s.rxlen.toNat + bs.length) } := by
  induction bs generalizing s with
  | nil => simp [runOps, Memory.writeFrom, clearView]
  | cons b bs ih =>
    rw [List.length_cons] at hl
    have hlt : s.rxlen.toNat < 255 := by omega
    have hsucc := toNat_rxlen_succ hlt
    have htail := ih (s := { s with rxbuf := Memory.write s.rxbuf s.rxlen.toNat b, rxlen := s.rxlen + 1 })
      (by rw [hsucc]; omega)
    rw [hsucc, show s.rxlen.toNat + 1 + bs.length = s.rxlen.toNat + (b :: bs).length by simp; omega] at htail
    rw [List.map_cons, runOps, exec, execRxPush_of_lt (s := clearView s) hlt]
    exact htail

/-- RX.LOAD of up to 255 bytes (30_encoding.md R104). -/
theorem runOps_rxLoad {bs : List Byte} (h : bs.length ≤ 255) (s : State) :
    runOps (rxLoad bs) s = .next (loaded bs s) := by
  have hrun := runOps_rxPush_eq_writeFrom (s := { s with rxlen := 0 }) (bs := bs) (by simpa using h)
  simpa [rxLoad, loaded, runOps, exec, execRxClr, andThen, clearView] using hrun

theorem toNat_rxlen_loaded {bs : List Byte} (h : bs.length ≤ 255) (s : State) :
    (loaded bs s).rxlen.toNat = bs.length := by
  rw [loaded, BitVec.toNat_ofNat]
  omega

/-- The loaded bytes are the valid response (42_buffers.md R162). -/
theorem rxFrame_loaded {bs : List Byte} {s : State} (hw : Memory.wf s.rxbuf) (h : bs.length ≤ 255) :
    rxFrame (loaded bs s) = bs := by
  rw [rxFrame, toNat_rxlen_loaded h]
  exact Memory.readRange_writeFrom hw h

/-! ### The outcome of a verdict -/

/-- The bytes of a response that a verdict gives out (44_transaction.md R211). -/
def verdictData (r : List Byte) : Verdict → List Byte
  | .success off len => (r.drop off.toNat).take len.toNat
  | .devExc _ => []
  | .err _ => []

/-- The outcome that a transaction reports for a verdict on a response (44_transaction.md R211). -/
def verdictOutcome (m : ExcMap) (r : List Byte) : Verdict → XactOutcome
  | .success off len => .success (verdictData r (.success off len))
  | .devExc raw => .deviceException raw (memberId (excMember m raw))
  | .err c => .protocolError (conditionCode c)

/-- What a transaction leaves and answers after a CHECK with a given verdict (44_transaction.md R211). -/
def concluded (v : Verdict) (s : State) : State × XactOutcome :=
  (outAll (verdictData (rxFrame s) v) (checked v s), verdictOutcome s.cfg.excMap (rxFrame s) v)

/-- A condition's code is neither that of a success nor that of a device exception (60_exceptions.md R232). -/
theorem conditionCode_ne_result (c : Condition) : conditionCode c ≠ stSuccess ∧ conditionCode c ≠ stDevExc := by
  cases c <;> decide

/-- The view of a success lies inside the valid response (10_state.md R44). -/
theorem view_le_of_judge_success {minLength : Nat} {s : State} {off len : Byte}
    (h : judge minLength s = .success off len) : off.toNat + len.toNat ≤ s.rxlen.toNat := by
  rcases judge_cases minLength s with ⟨c, hj, -⟩ | hj | ⟨-, hj, hl, -⟩ | ⟨-, hj, hl, -⟩
  · cases hj.symm.trans h
  · cases hj.symm.trans h
  · cases hj.symm.trans h
    rw [hl]
    change 3 + _ ≤ _
    omega
  · cases hj.symm.trans h
    exact le_trans (by decide) hl

/-- The conditions that CHECK reports with a request latched (60_exceptions.md R232). -/
theorem conditionCode_of_judge_err {minLength : Nat} {s : State} {c : Condition}
    (h : judge minLength s = .err c) : conditionCode c ∈ checkCodes := by
  rcases judge_cases minLength s with ⟨d, hj, hd⟩ | hj | ⟨-, hj, -⟩ | ⟨-, hj, -⟩
  · cases hj.symm.trans h
    exact hd
  all_goals cases hj.symm.trans h

/-- The data of a verdict are the result data that its CHECK leaves (10_state.md R35). -/
theorem resultData_checked {minLength : Nat} {s : State} {off len : Byte}
    (h : judge minLength s = .success off len) :
    resultData (checked (.success off len) s) = verdictData (rxFrame s) (.success off len) :=
  resultData_eq (s := checked (.success off len) s) (view_le_of_judge_success h)

/-- How a transaction concludes on a success whose view lies inside the valid response (44_transaction.md R211). -/
theorem conclude_success {s : State} (h : s.status = stSuccess)
    (hview : s.doff.toNat + s.dlen.toNat ≤ s.rxlen.toNat) :
    conclude s = .next (outAll (resultData s) s, .success (resultData s)) := by
  rw [conclude, if_pos h, collectOutput_resDump hview]
  rfl

/-- How a transaction concludes, for each verdict (44_transaction.md R211). -/
theorem conclude_checked_judge (minLength : Nat) (s : State) :
    conclude (checked (judge minLength s) s) = .next (concluded (judge minLength s) s) := by
  cases hj : judge minLength s with
  | success off len =>
    rw [conclude_success rfl (view_le_of_judge_success hj), resultData_checked hj]
    rfl
  | devExc raw =>
    rw [conclude_devExc rfl, concluded, verdictData, outAll_nil]
    rfl
  | err c =>
    obtain ⟨hs, hd⟩ := conditionCode_ne_result c
    rw [conclude_failure hs hd, concluded, verdictData, outAll_nil]
    rfl

/-- Loading and checking a response that fits RXBUF, with a request latched (44_transaction.md R211). -/
theorem loadAndCheck_eq {minLength : Nat} {bs : List Byte} {s : State} (hc : s.ctxv = true) (h : bs.length ≤ 255) :
    loadAndCheck minLength bs s = .next (concluded (judge minLength (loaded bs s)) (loaded bs s)) := by
  have hcheck : checkWith minLength (loaded bs s) = .next (checked (judge minLength (loaded bs s)) (loaded bs s)) :=
    checkWith_eq_checked_judge hc
  rw [loadAndCheck, runOps_rxLoad h, andThen, hcheck, andThen, conclude_checked_judge]

end Sys2Proof.Machine
end

section
/-! A transaction as a function: what the transport answers, and what the block makes of it (44_transaction.md R211 to
R213). -/

namespace Sys2Proof.Machine

/-- What the transport's part of a transaction comes to (44_transaction.md R211, R213). -/
inductive Exchange where
  /-- The transaction ends without a response to check. -/
  | ended (r : XactOutcome)
  /-- A response to load and check under a minimum length of a write response. -/
  | response (minLength : Nat) (bs : List Byte)

/-- What an answer of `ReadExact` comes to (44_transaction.md R211, R213). -/
def readExchange (cfg : Config) : ReadAnswer → Exchange
  | .bytes bs => .response (minWriteLength cfg.writeMinLen) bs
  | .failure e => .ended (.transportError e)
  | .timeout collected =>
    if cfg.shortResponse = .validatePartial ∧ 5 ≤ collected.length then .response 5 collected
    else .ended (.timeout .read (some collected.length))

/-- What the transport's answers to a frame and to a read of `n` bytes come to (44_transaction.md R211). -/
def exchange (o : Oracle) (n : Nat) (cfg : Config) (frame : List Byte) : Exchange :=
  match o.write frame with
  | .failure e => .ended (.transportError e)
  | .timeout => .ended (.timeout .write none)
  | .written _ => readExchange cfg (o.readExact n)

/-- What the block makes of an exchange (44_transaction.md R211). -/
def finished : Exchange → State → State × XactOutcome
  | .ended r, s => (s, r)
  | .response minLength bs, s => concluded (judge minLength (loaded bs s)) (loaded bs s)

/-- The state and the outcome of a transaction once its request is latched (44_transaction.md R211). -/
def transacted (o : Oracle) (n : Nat) (s : State) : State × XactOutcome :=
  finished (exchange o n s.cfg (txFrame s)) (outAll (txFrame s) s)

/-- Everything an answer of `ReadExact` can come to. Under the policy `timeout` a response has all the bytes asked
for (44_transaction.md R206, R213). -/
theorem readExchange_cases (cfg : Config) {n : Nat} {a : ReadAnswer} (h : a.fits n) :
    (∃ e, readExchange cfg a = .ended (.transportError e)) ∨
    (∃ p k, readExchange cfg a = .ended (.timeout p k)) ∨
    (∃ m bs, readExchange cfg a = .response m bs ∧ bs.length ≤ n ∧
      (cfg.shortResponse = .timeout → bs.length = n)) := by
  cases a with
  | bytes bs => exact .inr (.inr ⟨_, bs, rfl, Nat.le_of_eq h, fun _ => h⟩)
  | failure e => exact .inl ⟨e, rfl⟩
  | timeout collected =>
    by_cases hp : cfg.shortResponse = .validatePartial ∧ 5 ≤ collected.length
    · refine .inr (.inr ⟨5, collected, if_pos hp, Nat.le_of_lt h, fun ht => ?_⟩)
      cases hp.1.symm.trans ht
    · exact .inr (.inl ⟨_, _, if_neg hp⟩)

/-- Everything the transport's answers can come to (44_transaction.md R211, R213). -/
theorem exchange_cases (o : Oracle) (n : Nat) (cfg : Config) (frame : List Byte) :
    (∃ e, exchange o n cfg frame = .ended (.transportError e)) ∨
    (∃ p k, exchange o n cfg frame = .ended (.timeout p k)) ∨
    (∃ m bs, exchange o n cfg frame = .response m bs ∧ bs.length ≤ n ∧
      (cfg.shortResponse = .timeout → bs.length = n)) := by
  unfold exchange
  cases o.write frame with
  | failure e => exact .inl ⟨e, rfl⟩
  | timeout => exact .inr (.inl ⟨_, _, rfl⟩)
  | written k => exact readExchange_cases cfg (o.readExact_fits n)

/-- What follows a read, in every case whose response fits RXBUF (44_transaction.md R211, R213). -/
theorem afterRead_eq {n : Nat} {a : ReadAnswer} {s : State} (hc : s.ctxv = true) (h : a.fits n) (hn : n ≤ 255) :
    afterRead a s = .next (finished (readExchange s.cfg a) s) := by
  cases a with
  | bytes bs => exact loadAndCheck_eq hc (le_trans (Nat.le_of_eq h) hn)
  | failure e => rfl
  | timeout collected =>
    change collected.length < n at h
    cases hp : s.cfg.shortResponse with
    | timeout => simp [afterRead, readExchange, finished, hp]
    | validatePartial =>
      by_cases hl : 5 ≤ collected.length
      · simp only [afterRead, readExchange, hp, hl]
        exact loadAndCheck_eq hc (by omega)
      · simp [afterRead, readExchange, finished, hp, hl]

/-- T2 to T6 with a request latched, for a read that fits RXBUF (44_transaction.md R211). -/
theorem transact_eq (o : Oracle) {n : Nat} {s : State} (hc : s.ctxv = true) (hn : n ≤ 255) :
    transact o n s = .next (transacted o n s) := by
  rw [transact, collectOutput_txDump, transacted, exchange]
  simp only [andThen]
  cases o.write (txFrame s) with
  | failure e => rfl
  | timeout => rfl
  | written k => exact afterRead_eq (s := outAll (txFrame s) s) hc (o.readExact_fits n) hn

/-- The four codes of the argument checks end a transaction (44_transaction.md R211). -/
theorem isArgError_of_argCheck {kind : RequestKind} {addr : Byte} {n : Nat} {c : Condition}
    (h : argCheck kind addr n = some c) : isArgError (conditionCode c) = true :=
  (by decide : ∀ code ∈ ([0x10, 0x11, 0x12, 0x13] : List Byte), isArgError code = true) _ (argCheck_some_code h)

/-- XACT.RD with arguments that fail a check (44_transaction.md R212). -/
theorem xactRead_of_some {addr bc : Byte} {c : Condition} (h : argCheck .read addr bc.toNat = some c) (o : Oracle)
    (start : Word) (s : State) :
    xactRead o addr start bc s = .next (rejected (conditionCode c) s, .argError (conditionCode c)) := by
  rw [xactRead, exec, execBuildRd_of_some h, andThen, if_pos (isArgError_of_argCheck h)]
  rfl

/-- XACT.WR with arguments that fail a check (44_transaction.md R211). -/
theorem xactWrite_of_some {addr : Byte} {data : List Byte} {c : Condition}
    (h : argCheck .write addr data.length = some c) (o : Oracle) (start : Word) (s : State) :
    xactWrite o addr start data s = .next (rejected (conditionCode c) s, .argError (conditionCode c)) := by
  rw [xactWrite, exec, execBuildWr_of_some h, andThen, if_pos (isArgError_of_argCheck h)]
  rfl

/-- The request of a read with its context, as an accepted BUILD.RD latches it (41_build.md R144). -/
def readLatched (addr : Byte) (start : Word) (bc : Byte) (s : State) : State :=
  latchRequest .read addr start bc (readRequest addr start bc) s

/-- The request of a write with its context, as an accepted BUILD.WR latches it (41_build.md R150). -/
def writeLatched (addr : Byte) (start : Word) (data : List Byte) (s : State) : State :=
  latchRequest .write addr start (BitVec.ofNat 8 data.length) (writeRequest addr start data) s

/-- XACT.RD with arguments that pass (44_transaction.md R212). -/
theorem xactRead_of_none {addr bc : Byte} (h : argCheck .read addr bc.toNat = none) (o : Oracle) (start : Word)
    (s : State) :
    xactRead o addr start bc s = .next (transacted o (5 + bc.toNat) (readLatched addr start bc s)) := by
  obtain ⟨-, -, -, hbc⟩ := (argCheck_eq_none_iff ..).mp h
  change bc.toNat ≤ 250 at hbc
  have hexp : (readLatched addr start bc s).explen.toNat = 5 + bc.toNat := toNat_expectedLength_read hbc
  rw [xactRead, exec, execBuildRd_of_none h, andThen, latchRequest_status, if_neg (by decide), ← hexp]
  exact transact_eq o rfl (by omega)

/-- XACT.WR with arguments that pass (44_transaction.md R211). -/
theorem xactWrite_of_none {addr : Byte} {data : List Byte} (h : argCheck .write addr data.length = none) (o : Oracle)
    (start : Word) (s : State) :
    xactWrite o addr start data s = .next (transacted o 8 (writeLatched addr start data s)) := by
  rw [xactWrite, exec, execBuildWr_of_none h, andThen, latchRequest_status, if_neg (by decide)]
  exact transact_eq o rfl (by decide)

/-- Everything XACT.RD can answer (44_transaction.md R212). -/
theorem xactRead_cases {o : Oracle} {s : State} {addr bc : Byte} {start : Word} {p : State × XactOutcome}
    (h : xactRead o addr start bc s = .next p) :
    (∃ c, argCheck .read addr bc.toNat = some c ∧
      p = (rejected (conditionCode c) s, .argError (conditionCode c))) ∨
    (argCheck .read addr bc.toNat = none ∧ p = transacted o (5 + bc.toNat) (readLatched addr start bc s)) := by
  cases ha : argCheck .read addr bc.toNat with
  | some c => exact .inl ⟨c, rfl, Host.Outcome.next.inj (h.symm.trans (xactRead_of_some ha o start s))⟩
  | none => exact .inr ⟨rfl, Host.Outcome.next.inj (h.symm.trans (xactRead_of_none ha o start s))⟩

/-- Everything XACT.WR can answer (44_transaction.md R211). -/
theorem xactWrite_cases {o : Oracle} {s : State} {addr : Byte} {start : Word} {data : List Byte}
    {p : State × XactOutcome} (h : xactWrite o addr start data s = .next p) :
    (∃ c, argCheck .write addr data.length = some c ∧
      p = (rejected (conditionCode c) s, .argError (conditionCode c))) ∨
    (argCheck .write addr data.length = none ∧ p = transacted o 8 (writeLatched addr start data s)) := by
  cases ha : argCheck .write addr data.length with
  | some c => exact .inl ⟨c, rfl, Host.Outcome.next.inj (h.symm.trans (xactWrite_of_some ha o start s))⟩
  | none => exact .inr ⟨rfl, Host.Outcome.next.inj (h.symm.trans (xactWrite_of_none ha o start s))⟩

/-- Settles O49: the argument checks end a transaction before the frame is taken off the block. -/
theorem argumentErrorTouchesNoTransport : Obligations.ArgumentErrorTouchesNoTransport := by
  refine fun o s addr start => ⟨fun bc hbad => ?_, fun data _ hbad => ?_⟩
  · obtain ⟨c, hc, hcode⟩ := argCheck_of_not_ok (kind := .read) hbad
    rw [← hcode]
    exact xactRead_of_some hc o start s
  · obtain ⟨c, hc, hcode⟩ := argCheck_of_not_ok (kind := .write) hbad
    rw [← hcode]
    exact xactWrite_of_some hc o start s

/-- Settles O57: both ways a BUILD can answer end in an outcome. -/
theorem everyTransactionEnds : Obligations.EveryTransactionEnds := by
  refine fun o s addr start bc data => ⟨?_, ?_⟩
  · cases h : argCheck .read addr bc.toNat with
    | some c => exact ⟨_, _, xactRead_of_some h o start s⟩
    | none => exact ⟨_, _, xactRead_of_none h o start s⟩
  · cases h : argCheck .write addr data.length with
    | some c => exact ⟨_, _, xactWrite_of_some h o start s⟩
    | none => exact ⟨_, _, xactWrite_of_none h o start s⟩

end Sys2Proof.Machine
end

section
/-! What a transaction's outcome says of the state it leaves (44_transaction.md R214, R216). -/

namespace Sys2Proof.Machine

/-- A transaction leaves the request frame as it was latched (44_transaction.md R211). -/
theorem txFrame_finished (x : Exchange) (s : State) : txFrame (finished x s).1 = txFrame s := by
  cases x <;> rfl

theorem txFrame_transacted (o : Oracle) (n : Nat) (s : State) : txFrame (transacted o n s).1 = txFrame s :=
  txFrame_finished _ _

/-- What R214 asks of the state `t` that a transaction leaves with an outcome, when `before` was on the result
stream. -/
def OutcomeFits (before : List Byte) (t : State) : XactOutcome → Prop
  | .argError code => code = t.status ∧ code ∈ ([0x10, 0x11, 0x12, 0x13] : List Byte) ∧ t.result = before
  | .transportError _ => t.status = 0x01 ∧ t.ctxv = true ∧ t.result = before ++ txFrame t
  | .timeout _ _ => t.status = 0x01 ∧ t.ctxv = true ∧ t.result = before ++ txFrame t
  | .protocolError code =>
    code = t.status ∧ code ∈ ([0x20, 0x21, 0x22, 0x23, 0x24, 0x25, 0x26] : List Byte) ∧
      t.result = before ++ txFrame t
  | .success bytes => t.status = 0x02 ∧ bytes = resultData t ∧ t.result = before ++ txFrame t ++ bytes
  | .deviceException raw member =>
    t.status = 0x03 ∧ raw = t.exc ∧ member = t.excm ∧ t.result = before ++ txFrame t

/-- Every verdict fits what it leaves (43_check.md R171; 44_transaction.md R214). -/
theorem outcomeFits_concluded {before : List Byte} {s : State} (h : s.result = before ++ txFrame s)
    (minLength : Nat) :
    OutcomeFits before (concluded (judge minLength s) s).1 (concluded (judge minLength s) s).2 := by
  have hnone : s.result ++ [] = before ++ txFrame s := by rw [List.append_nil, h]
  cases hj : judge minLength s with
  | success off len => exact ⟨rfl, (resultData_checked hj).symm, congrArg (· ++ _) h⟩
  | devExc raw => exact ⟨rfl, rfl, rfl, hnone⟩
  | err c => exact ⟨rfl, conditionCode_of_judge_err hj, hnone⟩

/-- Every outcome of a latched request fits the state left (44_transaction.md R214). -/
theorem outcomeFits_transacted (o : Oracle) (n : Nat) {s : State} (hs : s.status = 0x01) (hc : s.ctxv = true) :
    OutcomeFits s.result (transacted o n s).1 (transacted o n s).2 := by
  unfold transacted
  rcases exchange_cases o n s.cfg (txFrame s) with ⟨e, hx⟩ | ⟨p, k, hx⟩ | ⟨m, bs, hx, -, -⟩
  · rw [hx]
    exact ⟨hs, hc, rfl⟩
  · rw [hx]
    exact ⟨hs, hc, rfl⟩
  · rw [hx]
    exact outcomeFits_concluded rfl m

/-- Every outcome of a transaction fits the state left (44_transaction.md R214). The hypothesis `h` is what both
`xactRead_cases` and `xactWrite_cases` conclude. -/
theorem outcomeFits_of_cases {kind : RequestKind} {addr : Byte} {bytes n : Nat} {o : Oracle} {s u : State}
    {p : State × XactOutcome}
    (h : (∃ c, argCheck kind addr bytes = some c ∧
        p = (rejected (conditionCode c) s, .argError (conditionCode c))) ∨
      (argCheck kind addr bytes = none ∧ p = transacted o n u))
    (hs : u.status = 0x01) (hc : u.ctxv = true) (hr : u.result = s.result) : OutcomeFits s.result p.1 p.2 := by
  rcases h with ⟨c, ha, rfl⟩ | ⟨-, rfl⟩
  · exact ⟨rfl, argCheck_some_code ha, rfl⟩
  · exact hr ▸ outcomeFits_transacted o n hs hc

/-- Settles O50: `OutcomeFits` is the classification, and both transactions meet it. -/
theorem transactionOutcomesAreClassified : Obligations.TransactionOutcomesAreClassified := by
  intro o s t addr start bc data r h
  have hfits : OutcomeFits s.result t r := h.elim
    (fun h => outcomeFits_of_cases (xactRead_cases h) rfl rfl rfl)
    (fun h => outcomeFits_of_cases (xactWrite_cases h) rfl rfl rfl)
  cases r <;> exact hfits

/-- A read response with all the bytes expected passes the two length stages (43_check.md R179). -/
theorem conditionCode_of_judge_read {minLength : Nat} {s : State} {c : Condition} (hf : s.reqFunc = 0x04)
    (hl : s.rxlen.toNat = 5 + s.reqBc.toNat) (h : judge minLength s = .err c) :
    conditionCode c ∈ ([0x21, 0x22, 0x23, 0x25] : List Byte) := by
  rw [judge_read hf, if_neg (by omega)] at h
  split at h
  · cases h; decide
  split at h
  · cases h
  split at h
  · cases h; decide
  split at h
  · cases h; decide
  rw [if_neg (not_not_intro hl)] at h
  split at h
  · cases h; decide
  · cases h

/-- What a latched read can report as a protocol error under the policy `timeout` (44_transaction.md R216). -/
theorem protocolError_of_transacted {o : Oracle} {s : State} {code : Byte} (hpolicy : s.cfg.shortResponse = .timeout)
    (hf : s.reqFunc = 0x04) (hbc : s.reqBc.toNat ≤ 250)
    (h : (transacted o (5 + s.reqBc.toNat) s).2 = .protocolError code) :
    code ∈ ([0x21, 0x22, 0x23, 0x25] : List Byte) := by
  unfold transacted at h
  rcases exchange_cases o (5 + s.reqBc.toNat) s.cfg (txFrame s) with
    ⟨e, hx⟩ | ⟨p, k, hx⟩ | ⟨m, bs, hx, -, hwhole⟩
  · rw [hx] at h; cases h
  · rw [hx] at h; cases h
  · have hlen := hwhole hpolicy
    have hrx : (loaded bs (outAll (txFrame s) s)).rxlen.toNat = 5 + s.reqBc.toNat := by
      rw [toNat_rxlen_loaded (by omega), hlen]
    rw [hx, finished] at h
    cases hj : judge m (loaded bs (outAll (txFrame s) s)) with
    | success off len => rw [hj] at h; cases h
    | devExc raw => rw [hj] at h; cases h
    | err c =>
      rw [hj] at h
      cases h
      exact conditionCode_of_judge_read (s := loaded bs (outAll (txFrame s) s)) hf hrx hj

/-- Settles O58: under the policy `timeout` a response has all the bytes asked for. -/
theorem wholeReadIsNeverOfWrongLength : Obligations.WholeReadIsNeverOfWrongLength := by
  intro o s t addr start bc r hpolicy h
  have hcode (code : Byte) (hr : r = .protocolError code) : code ∈ ([0x21, 0x22, 0x23, 0x25] : List Byte) := by
    rcases xactRead_cases h with ⟨c, -, hp⟩ | ⟨ha, hp⟩
    · cases hp
      cases hr
    · obtain ⟨-, -, -, hbc⟩ := (argCheck_eq_none_iff ..).mp ha
      exact protocolError_of_transacted (s := readLatched addr start bc s) hpolicy rfl hbc
        ((congrArg Prod.snd hp).symm.trans hr)
  exact ⟨fun hr => absurd (hcode _ hr) (by decide), fun hr => absurd (hcode _ hr) (by decide)⟩

end Sys2Proof.Machine
end

section
/-! Transactions with a device that answers as asked, or with a bare exception frame (44_transaction.md R211 to
R213). -/

namespace Sys2Proof.Machine

/-- After a write that was taken the read's answer decides (44_transaction.md R211). -/
theorem exchange_of_written {o : Oracle} {frame : List Byte} {k : Nat} (h : o.write frame = .written k) (n : Nat)
    (cfg : Config) : exchange o n cfg frame = readExchange cfg (o.readExact n) := by
  rw [exchange, h]

/-- The state in which a response to a latched request is checked (44_transaction.md R211). -/
def responded (bs : List Byte) (s : State) : State := loaded bs (outAll (txFrame s) s)

/-- A transaction whose response gets a given verdict (44_transaction.md R211). -/
theorem transacted_of_verdict {o : Oracle} {n minLength : Nat} {s : State} {bs : List Byte} {v : Verdict}
    (hx : exchange o n s.cfg (txFrame s) = .response minLength bs) (hj : judge minLength (responded bs s) = v) :
    transacted o n s = concluded v (responded bs s) := by
  rw [transacted, hx, ← hj]
  rfl

/-- A response that is read whole and accepted: its data, the frame and the data on the result stream
(44_transaction.md R211). -/
theorem transacted_success {o : Oracle} {n k : Nat} {s : State} {bs data : List Byte} {off len : Byte}
    (hwrite : o.write (txFrame s) = .written k) (hread : o.readExact n = .bytes bs)
    (hj : judge (minWriteLength s.cfg.writeMinLen) (responded bs s) = .success off len)
    (hdata : verdictData (rxFrame (responded bs s)) (.success off len) = data) :
    ∃ t, transacted o n s = (t, .success data) ∧ t.status = 0x02 ∧ txFrame t = txFrame s ∧
      t.result = s.result ++ txFrame s ++ data := by
  have hx : exchange o n s.cfg (txFrame s) = .response (minWriteLength s.cfg.writeMinLen) bs := by
    rw [exchange_of_written hwrite, hread]
    rfl
  subst hdata
  exact ⟨(concluded (.success off len) (responded bs s)).1, transacted_of_verdict hx hj, rfl, rfl, rfl⟩

/-- A read response that passes each stage is accepted (43_check.md R176, R184). -/
theorem judge_read_success {minLength : Nat} {s : State} (hf : s.reqFunc = 0x04)
    (hl : s.rxlen.toNat = 5 + s.reqBc.toNat) (haddr : byteAt (rxFrame s) 0 = s.reqAddr)
    (hfunc : byteAt (rxFrame s) 1 = 0x04) (hbc : byteAt (rxFrame s) 2 = s.reqBc) (hcrc : crcOk (rxFrame s) = true) :
    judge minLength s = .success 3 s.reqBc := by
  rw [judge_read hf, if_neg (by omega), if_neg (not_not_intro haddr), if_neg (by rw [hfunc]; decide),
    if_neg (not_not_intro hfunc), if_neg (not_not_intro hbc), if_neg (not_not_intro hl), if_neg (by rw [hcrc]; decide)]

/-- Settles O51: the echo passes each stage, and its data are bytes 2 to 5. -/
theorem writeTransactionRoundTrip : Obligations.WriteTransactionRoundTrip := by
  intro o s addr start data k c d hwt hwr haddr hcount hwrite hread
  have ⟨_, _, hn⟩ := hcount
  set bs := withCrc [addr, 0x10, beHi start, beLo start, c, d] with hbs
  have hsent : txFrame (writeLatched addr start data s) = writeRequest addr start data :=
    txFrame_latchRequest hwt (by rw [length_writeRequest]; omega)
  have hframe : rxFrame (responded bs (writeLatched addr start data s)) = bs := rxFrame_loaded hwr (by simp [hbs])
  have hj : judge (minWriteLength s.cfg.writeMinLen) (responded bs (writeLatched addr start data s)) =
      .success 2 4 := by
    refine judge_write_success rfl (minWriteLength_le _) (Nat.le_of_eq rfl) ?_ ?_ ?_ ?_
    · rw [hframe]; rfl
    · rw [hframe]; rfl
    · rw [hframe, hbs, crcOk_withCrc]
    · rw [hframe]; exact be16_beHi_beLo start
  obtain ⟨t, ht, hstatus, htx, hresult⟩ := transacted_success (data := [beHi start, beLo start, c, d])
    (hsent ▸ hwrite) hread hj (by rw [hframe]; rfl)
  rw [hsent] at htx hresult
  exact ⟨t, (xactWrite_of_none ((argCheck_eq_none_iff ..).mpr ⟨haddr, hcount⟩) o start s).trans (congrArg _ ht),
    hstatus, htx, hresult⟩

/-- Settles O52: the answer passes each stage, and its data are all that lies between the count and the CRC. -/
theorem readTransactionRoundTrip : Obligations.ReadTransactionRoundTrip := by
  intro o s addr start bc k bytes hwt hwr haddr hcount hlen hwrite hread
  have ⟨_, _, hbc⟩ := hcount
  set bs := withCrc ([addr, 0x04, bc] ++ bytes) with hbs
  have hbslen : bs.length = 5 + bc.toNat := by rw [hbs, length_withCrc, ← hlen]; simp; omega
  have hsent : txFrame (readLatched addr start bc s) = readRequest addr start bc :=
    txFrame_latchRequest hwt (by simp)
  have hframe : rxFrame (responded bs (readLatched addr start bc s)) = bs := rxFrame_loaded hwr (by omega)
  have hj : judge (minWriteLength s.cfg.writeMinLen) (responded bs (readLatched addr start bc s)) =
      .success 3 bc := by
    refine judge_read_success rfl ?_ ?_ ?_ ?_ ?_
    · exact (toNat_rxlen_loaded (by omega) _).trans hbslen
    · rw [hframe]; rfl
    · rw [hframe]; rfl
    · rw [hframe]; rfl
    · rw [hframe, hbs, crcOk_withCrc]
  have hdata : verdictData (rxFrame (responded bs (readLatched addr start bc s))) (.success 3 bc) = bytes := by
    rw [hframe, verdictData, ← hlen]
    exact List.take_left
  obtain ⟨t, ht, hstatus, htx, hresult⟩ := transacted_success (hsent ▸ hwrite) hread hj hdata
  rw [hsent] at htx hresult
  exact ⟨t, (xactRead_of_none ((argCheck_eq_none_iff ..).mpr ⟨haddr, hcount⟩) o start s).trans (congrArg _ ht),
    hstatus, htx, hresult⟩

/-- A latched request whose read times out on a bare exception frame, under either policy (44_transaction.md R213). -/
theorem transacted_shortException {o : Oracle} {n k : Nat} {s : State} {fn raw x y : Byte} (hw : Memory.wf s.rxbuf)
    (hs : s.status = 0x01) (hc : s.ctxv = true) (hf : s.reqFunc = 0x04 ∨ s.reqFunc = 0x10)
    (hbit : fn.getLsbD 7 = true) (hwrite : o.write (txFrame s) = .written k)
    (hread : o.readExact n = .timeout [s.reqAddr, fn, raw, x, y]) :
    (s.cfg.shortResponse = .timeout →
      ∃ t, transacted o n s = (t, .timeout .read (some 5)) ∧ t.status = 0x01 ∧ t.ctxv = true) ∧
    (s.cfg.shortResponse = .validatePartial →
      ∃ t, transacted o n s = (t, .deviceException raw (memberId (excMember s.cfg.excMap raw))) ∧
        t.status = 0x03) := by
  have hx := exchange_of_written hwrite n s.cfg
  rw [hread] at hx
  refine ⟨fun hp => ?_, fun hp => ?_⟩
  · have hended : exchange o n s.cfg (txFrame s) = .ended (.timeout .read (some 5)) := by simp [hx, readExchange, hp]
    rw [transacted, hended]
    exact ⟨_, rfl, hs, hc⟩
  · have hresponse : exchange o n s.cfg (txFrame s) = .response 5 [s.reqAddr, fn, raw, x, y] := by
      simp [hx, readExchange, hp]
    have hframe : rxFrame (responded [s.reqAddr, fn, raw, x, y] s) = [s.reqAddr, fn, raw, x, y] :=
      rxFrame_loaded hw (by simp)
    have hj : judge 5 (responded [s.reqAddr, fn, raw, x, y] s) = .devExc raw := by
      have hverdict := judge_of_exception (minLength := 5) (s := responded [s.reqAddr, fn, raw, x, y] s)
        (hf.imp (⟨·, Nat.le_refl 5⟩) (⟨·, Nat.le_refl 5⟩)) (by rw [hframe]; rfl) (by rw [hframe]; exact hbit)
      rw [hframe] at hverdict
      exact hverdict
    exact ⟨_, transacted_of_verdict hresponse hj, rfl⟩

/-- Settles O54: both requests are latched, and each read is of more than five bytes. -/
theorem shortExceptionFollowsThePolicy : Obligations.ShortExceptionFollowsThePolicy := by
  intro o s addr start bc data fn raw x y hwt hwr haddr hbc hdata hbit hwrite hread
  have ⟨hbc0, _, _⟩ := hbc
  obtain ⟨k, hk⟩ := hwrite (txFrame (readLatched addr start bc s))
  obtain ⟨j, hj⟩ := hwrite (txFrame (writeLatched addr start data s))
  have hr := transacted_shortException (s := readLatched addr start bc s) hwr rfl rfl (.inl rfl) hbit hk
    (hread (5 + bc.toNat) (by omega))
  have hw := transacted_shortException (s := writeLatched addr start data s) hwr rfl rfl (.inr rfl) hbit hj
    (hread 8 (by decide))
  rw [xactRead_of_none ((argCheck_eq_none_iff ..).mpr ⟨haddr, hbc⟩),
    xactWrite_of_none ((argCheck_eq_none_iff ..).mpr ⟨haddr, hdata⟩)]
  simp only [Host.Outcome.next.injEq]
  exact ⟨fun hp => ⟨hr.1 hp, hw.1 hp⟩, fun hp => ⟨hr.2 hp, hw.2 hp⟩⟩

end Sys2Proof.Machine
end

section
/-! A transaction as a function of its arguments, the parameters and the transport alone (44_transaction.md R215). -/

namespace Sys2Proof.Machine

/-- Two answers of a transaction agree: the outcome, STATUS and the request frame (44_transaction.md R215). -/
structure SameAnswer (p q : State × XactOutcome) : Prop where
  outcome : p.2 = q.2
  status : p.1.status = q.1.status
  txFrame : txFrame p.1 = txFrame q.1

/-- The states agree on what a transaction reads after its BUILD (44_transaction.md R215). -/
structure SameRequest (s t : State) : Prop where
  cfg : s.cfg = t.cfg
  status : s.status = t.status
  txFrame : txFrame s = txFrame t
  reqAddr : s.reqAddr = t.reqAddr
  reqFunc : s.reqFunc = t.reqFunc
  reqStart : s.reqStart = t.reqStart
  reqBc : s.reqBc = t.reqBc

/-- A BUILD of the same request in two states leaves the same request (41_build.md R144, R150). -/
theorem sameRequest_latchRequest {s t : State} (hs : Memory.wf s.txbuf) (ht : Memory.wf t.txbuf) (hcfg : s.cfg = t.cfg)
    (kind : RequestKind) (addr : Byte) (start : Word) (bc : Byte) {frame : List Byte} (hl : frame.length ≤ 255) :
    SameRequest (latchRequest kind addr start bc frame s) (latchRequest kind addr start bc frame t) where
  cfg := hcfg
  status := rfl
  txFrame := (txFrame_latchRequest hs hl).trans (txFrame_latchRequest ht hl).symm
  reqAddr := rfl
  reqFunc := rfl
  reqStart := rfl
  reqBc := rfl

/-- The verdict on a response to the same request is the same, and so is what is made of it (43_check.md R186). -/
theorem sameAnswer_response {s t : State} (h : SameRequest s t) (hs : Memory.wf s.rxbuf) (ht : Memory.wf t.rxbuf)
    (minLength : Nat) {bs : List Byte} (hl : bs.length ≤ 255) :
    SameAnswer (finished (.response minLength bs) s) (finished (.response minLength bs) t) := by
  have hframe : rxFrame (loaded bs s) = rxFrame (loaded bs t) :=
    (rxFrame_loaded hs hl).trans (rxFrame_loaded ht hl).symm
  have hj : judge minLength (loaded bs s) = judge minLength (loaded bs t) :=
    judge_congr h.reqAddr h.reqFunc h.reqStart h.reqBc hframe
  have hcfg : (loaded bs s).cfg = (loaded bs t).cfg := h.cfg
  rw [finished, finished, concluded, concluded, hj, hframe, hcfg]
  refine ⟨rfl, ?_, h.txFrame⟩
  change (reportRegisters s.cfg.excMap _).status = (reportRegisters t.cfg.excMap _).status
  rw [h.cfg]

/-- From the same request on, a transaction reads the transport's answers alone (44_transaction.md R215). -/
theorem sameAnswer_transacted {s t : State} (h : SameRequest s t) (hs : Memory.wf s.rxbuf) (ht : Memory.wf t.rxbuf)
    (o : Oracle) {n : Nat} (hn : n ≤ 255) : SameAnswer (transacted o n s) (transacted o n t) := by
  rw [transacted, transacted, h.cfg, h.txFrame]
  have hout : SameRequest (outAll (txFrame t) s) (outAll (txFrame t) t) := { h with }
  rcases exchange_cases o n t.cfg (txFrame t) with ⟨e, hx⟩ | ⟨p, k, hx⟩ | ⟨m, bs, hx, hl, -⟩
  · rw [hx]
    exact ⟨rfl, h.status, h.txFrame⟩
  · rw [hx]
    exact ⟨rfl, h.status, h.txFrame⟩
  · rw [hx]
    exact sameAnswer_response hout hs ht m (by omega)

/-- The same argument error leaves no frame (41_build.md R151). -/
theorem sameAnswer_rejected (code : Byte) (s t : State) :
    SameAnswer (rejected code s, .argError code) (rejected code t, .argError code) := ⟨rfl, rfl, rfl⟩

/-- XACT.RD from two states (44_transaction.md R215). -/
theorem exists_sameAnswer_xactRead {o : Oracle} {s s' : State} (hst : Memory.wf s.txbuf) (hsr : Memory.wf s.rxbuf)
    (hst' : Memory.wf s'.txbuf) (hsr' : Memory.wf s'.rxbuf) (hcfg : s.cfg = s'.cfg) {addr bc : Byte} {start : Word}
    {p : State × XactOutcome} (h : xactRead o addr start bc s = .next p) :
    ∃ q, xactRead o addr start bc s' = .next q ∧ SameAnswer q p := by
  rcases xactRead_cases h with ⟨c, ha, rfl⟩ | ⟨ha, rfl⟩
  · exact ⟨_, xactRead_of_some ha o start s', sameAnswer_rejected _ _ _⟩
  · obtain ⟨-, -, -, hbc⟩ := (argCheck_eq_none_iff ..).mp ha
    change bc.toNat ≤ 250 at hbc
    exact ⟨_, xactRead_of_none ha o start s', sameAnswer_transacted
      (sameRequest_latchRequest hst' hst hcfg.symm .read addr start bc (by simp)) hsr' hsr o (by omega)⟩

/-- XACT.WR from two states (44_transaction.md R215). -/
theorem exists_sameAnswer_xactWrite {o : Oracle} {s s' : State} (hst : Memory.wf s.txbuf) (hsr : Memory.wf s.rxbuf)
    (hst' : Memory.wf s'.txbuf) (hsr' : Memory.wf s'.rxbuf) (hcfg : s.cfg = s'.cfg) {addr : Byte} {start : Word}
    {data : List Byte} {p : State × XactOutcome} (h : xactWrite o addr start data s = .next p) :
    ∃ q, xactWrite o addr start data s' = .next q ∧ SameAnswer q p := by
  rcases xactWrite_cases h with ⟨c, ha, rfl⟩ | ⟨ha, rfl⟩
  · exact ⟨_, xactWrite_of_some ha o start s', sameAnswer_rejected _ _ _⟩
  · obtain ⟨-, -, -, hn⟩ := (argCheck_eq_none_iff ..).mp ha
    change data.length ≤ 246 at hn
    exact ⟨_, xactWrite_of_none ha o start s', sameAnswer_transacted
      (sameRequest_latchRequest hst' hst hcfg.symm .write addr start (BitVec.ofNat 8 data.length)
        (by rw [length_writeRequest]; omega)) hsr' hsr o (by decide)⟩

/-- Settles O53: a BUILD writes all that the rest of a transaction reads. -/
theorem transactionReadsNothingFromBefore : Obligations.TransactionReadsNothingFromBefore := by
  refine fun o s s' t addr start bc data r hst hsr hst' hsr' hcfg => ⟨fun h => ?_, fun h => ?_⟩
  · obtain ⟨⟨t', r'⟩, hq, rfl, hstatus, hframe⟩ := exists_sameAnswer_xactRead hst hsr hst' hsr' hcfg h
    exact ⟨t', hq, hstatus, hframe⟩
  · obtain ⟨⟨t', r'⟩, hq, rfl, hstatus, hframe⟩ := exists_sameAnswer_xactWrite hst hsr hst' hsr' hcfg h
    exact ⟨t', hq, hstatus, hframe⟩

end Sys2Proof.Machine
end

section
/-! The transport handle: its life cycle, and what its `ReadExact` collects (44_transaction.md R201 to R209). -/

namespace Sys2Proof.Machine

/-! ### The calls but `ReadExact` -/

/-- A non-empty write on an open handle counts all its bytes, times out or fails, as the line answers
(44_transaction.md R204). -/
theorem writeHandle_of_open {h : Handle} (ho : h.isOpen = true) {bs : List Byte} (hbs : bs ≠ []) :
    writeHandle .done bs h = (.written bs.length, send bs h) ∧
    (∀ k, writeHandle (.deadline k) bs h = (.timeout, send (bs.take k) h)) ∧
    (∀ k, writeHandle (.failed k) bs h = (.failure .ioFailure, send (bs.take k) h)) := by
  simp [writeHandle, hbs, ho]

/-- A non-empty write on a closed handle (44_transaction.md R204). -/
theorem writeHandle_of_closed {h : Handle} (hc : h.isOpen = false) {bs : List Byte} (hbs : bs ≠ [])
    (line : LineWrite) : writeHandle line bs h = (.failure .notOpen, h) := by
  simp [writeHandle, hbs, hc]

theorem closeHandle_of_open {h : Handle} (ho : h.isOpen = true) :
    closeHandle h = { dropBuffers h with isOpen := false, released := h.released + 1 } := if_pos ho

theorem closeHandle_of_closed {h : Handle} (hc : h.isOpen = false) : closeHandle h = h :=
  if_neg (Bool.eq_false_iff.mp hc)

/-- Closing leaves the handle closed (44_transaction.md R203). -/
theorem isOpen_closeHandle (h : Handle) : (closeHandle h).isOpen = false := by
  cases ho : h.isOpen with
  | true => rw [closeHandle_of_open ho]
  | false => rw [closeHandle_of_closed ho, ho]

/-- Closing releases what an opening took, and releases it once (44_transaction.md R203). -/
theorem opened_eq_released_closeHandle {h : Handle} (hcount : h.opened = h.released + (if h.isOpen then 1 else 0)) :
    (closeHandle h).opened = (closeHandle h).released := by
  cases ho : h.isOpen with
  | true =>
    rw [ho] at hcount
    rw [closeHandle_of_open ho]
    exact hcount
  | false =>
    rw [ho] at hcount
    rw [closeHandle_of_closed ho]
    exact hcount

/-- A read of a closed handle (44_transaction.md R206, log 18). -/
theorem readExact_of_closed {h : Handle} (hc : h.isOpen = false) (n : Nat) (line : List LineRead) :
    readExact n line h = .ok (.failure .notOpen, h) := by
  simp [readExact, readLoop, hc]

/-- Settles O55: call by call, on an open and on a closed handle. -/
theorem handleLifeCycle : Obligations.HandleLifeCycle := by
  refine fun h => ⟨fun ho => ?_, fun hc => ?_, closeHandle_of_closed (isOpen_closeHandle h), isOpen_closeHandle h,
    fun ms hms => if_neg (Nat.ne_of_gt hms), opened_eq_released_closeHandle⟩
  · exact ⟨fun ok => if_pos ho, fun ready => if_pos ho, if_pos ho, fun line => rfl,
      fun bs hbs => writeHandle_of_open ho hbs⟩
  · have hno : ¬ h.isOpen = true := Bool.eq_false_iff.mp hc
    exact ⟨if_neg hno, if_neg hno, closeHandle_of_closed hc, if_neg hno, fun ready => if_neg hno,
      fun line bs hbs => writeHandle_of_closed hc hbs line, readExact_of_closed hc⟩

/-! ### `ReadExact` -/

/-- With a positive read-timeout a read of some bytes is the body of `ReadExact` (44_transaction.md R206). -/
theorem readExact_eq_readLoop {n : Nat} {h : Handle} (hn : 0 < n) (ht : 0 < h.readTimeout) (line : List LineRead) :
    readExact n line h = .ok (readLoop n line h) :=
  if_neg (by omega)

/-- Settles O59: the oracle is made of the two calls. -/
theorem handleOracleIsTheHandle : Obligations.HandleOracleIsTheHandle :=
  fun _ reads h n hn ht => ⟨fun _ => rfl, (readLoop n reads h).2, readExact_eq_readLoop hn ht reads⟩

/-- Chunks as reads of the channel: when each arrives, and its bytes. -/
def lineOf (chunks : List (Nat × List Byte)) : List LineRead := chunks.map fun c => .bytes c.1 c.2

/-- The bytes of some chunks, in their order. -/
def bytesOfChunks (chunks : List (Nat × List Byte)) : List Byte := (chunks.map Prod.snd).flatten

/-- A chunk that is in time and holds bytes is collected (44_transaction.md R206). -/
theorem collect_of_inTime {n deadline elapsed : Nat} {bs acc : List Byte} {rs : List LineRead}
    (ht : elapsed < deadline) (hbs : bs ≠ []) :
    collect n deadline (.bytes elapsed bs :: rs) acc =
      if n ≤ (acc ++ bs).length then (.bytes ((acc ++ bs).take n), (acc ++ bs).drop n)
      else collect n deadline rs (acc ++ bs) := by
  simp [collect, inTime, ht, hbs]

/-- A chunk after the deadline ends the collection (44_transaction.md R206). -/
theorem collect_of_late {n deadline elapsed : Nat} {bs acc : List Byte} {rs : List LineRead}
    (h : deadline < elapsed) : collect n deadline (.bytes elapsed bs :: rs) acc = (.timeout acc, bs) := by
  have hlate : inTime elapsed deadline = false := by
    simp [inTime, show ¬ elapsed < deadline by omega, show ¬ elapsed = deadline by omega]
  rw [collect, hlate]
  rfl

/-- Chunks in time that complete the bytes wanted: their first `n` bytes (44_transaction.md R206). -/
theorem collect_of_enough {n deadline : Nat} {chunks : List (Nat × List Byte)} {rest : List LineRead}
    {acc : List Byte} (hin : ∀ c ∈ chunks, c.1 < deadline ∧ c.2 ≠ []) (hacc : acc.length < n)
    (hn : n ≤ (acc ++ bytesOfChunks chunks).length) :
    (collect n deadline (lineOf chunks ++ rest) acc).1 = .bytes ((acc ++ bytesOfChunks chunks).take n) := by
  induction chunks generalizing acc with
  | nil =>
    simp only [bytesOfChunks, List.map_nil, List.flatten_nil, List.append_nil] at hn
    omega
  | cons c chunks ih =>
    obtain ⟨⟨ht, hbs⟩, hin⟩ := List.forall_mem_cons.mp hin
    have hsplit : acc ++ bytesOfChunks (c :: chunks) = (acc ++ c.2) ++ bytesOfChunks chunks := by
      simp [bytesOfChunks]
    rw [hsplit] at hn ⊢
    rw [lineOf, List.map_cons, List.cons_append, collect_of_inTime ht hbs]
    split
    · next hfull => rw [List.take_append_of_le_length hfull]
    · next hless => exact ih hin (by omega) hn

/-- Chunks in time that hold too few bytes are collected, and the collection goes on (44_transaction.md R206). -/
theorem collect_of_few {n deadline : Nat} {chunks : List (Nat × List Byte)} {rest : List LineRead} {acc : List Byte}
    (hin : ∀ c ∈ chunks, c.1 < deadline ∧ c.2 ≠ []) (hn : (acc ++ bytesOfChunks chunks).length < n) :
    collect n deadline (lineOf chunks ++ rest) acc = collect n deadline rest (acc ++ bytesOfChunks chunks) := by
  induction chunks generalizing acc with
  | nil => simp [lineOf, bytesOfChunks]
  | cons c chunks ih =>
    obtain ⟨⟨ht, hbs⟩, hin⟩ := List.forall_mem_cons.mp hin
    have hsplit : acc ++ bytesOfChunks (c :: chunks) = (acc ++ c.2) ++ bytesOfChunks chunks := by
      simp [bytesOfChunks]
    rw [hsplit] at hn ⊢
    have hless : ¬ n ≤ (acc ++ c.2).length := by rw [List.length_append] at hn; omega
    rw [lineOf, List.map_cons, List.cons_append, collect_of_inTime ht hbs, if_neg hless]
    exact ih hin hn

/-- Pending bytes that suffice are the answer (44_transaction.md R206, log 19). -/
theorem readLoop_of_pending {n : Nat} {h : Handle} (ho : h.isOpen = true) (hn : n ≤ h.input.length)
    (line : List LineRead) : (readLoop n line h).1 = .bytes (h.input.take n) := by
  rw [readLoop, if_pos ho, if_pos hn]

/-- With too few bytes pending the line is read (44_transaction.md R206, log 19). -/
theorem readLoop_of_collect {n : Nat} {h : Handle} (ho : h.isOpen = true) (hn : h.input.length < n)
    (line : List LineRead) : (readLoop n line h).1 = (collect n h.readTimeout line h.input).1 := by
  rw [readLoop, if_pos ho, if_neg (by omega)]

/-- Settles O56: the contract of `ReadExact`, and what the accumulation loop collects from the chunks. -/
theorem readExactAnswersExactly : Obligations.ReadExactAnswersExactly := by
  intro n line h ho hn ht
  have hfits := fits_readLoop n line h
  refine ⟨(readLoop n line h).1, (readLoop n line h).2, readExact_eq_readLoop hn ht line, fun bs hbs => ?_,
    fun bs hbs => ?_, ?_⟩
  · rwa [hbs] at hfits
  · rwa [hbs] at hfits
  rintro chunks rest rfl hin
  refine ⟨fun henough => ?_, fun hfew hend => ?_⟩
  · by_cases hpending : n ≤ h.input.length
    · rw [readLoop_of_pending ho hpending, List.take_append_of_le_length hpending]
    · rw [readLoop_of_collect ho (by omega)]
      exact collect_of_enough hin (by omega) henough
  · have hpending : h.input.length < n := by rw [List.length_append] at hfew; omega
    have hcollect := collect_of_few (rest := rest) hin hfew
    rw [readLoop_of_collect ho hpending]
    refine (congrArg Prod.fst hcollect).trans ?_
    rcases hend with rfl | ⟨late, bs, more, rfl, hlate⟩
    · rfl
    · rw [collect_of_late hlate]
      rfl

end Sys2Proof.Machine
end

section
/-! The reset input: the stream it empties takes the next byte as an opcode (70_reset_and_hazards.md R260, R261). -/

namespace Sys2Proof.Machine

/-- A command sent to a block with nothing on its command stream is consumed whole and runs in the state that was there
before it (10_state.md R38; 30_encoding.md R95). -/
theorem step_hostSend_encode {s : State} (hs : s.cmdIn = []) {i : Instr} (hi : i.wf = true) :
    step (hostSend (encode i) s) = exec i s := by
  have hdecode : decode (hostSend (encode i) s).cmdIn = .command i [] := by
    rw [hostSend_cmdIn, hs, List.nil_append, ← List.append_nil (encode i)]
    exact decode_encode_append hi []
  have hconsumed : consumeTo [] (hostSend (encode i) s) = s := State.ext_iff.mpr (by simp [hs])
  rw [step_of_command hdecode, hconsumed]

/-- Settles O42: the reset input leaves the command stream empty, so that a command sent next is alone on it. -/
theorem resetInputTakesTheResetState : Obligations.ResetInputTakesTheResetState :=
  fun _ => ⟨rfl, rfl, fun _ => step_hostSend_encode rfl⟩

end Sys2Proof.Machine
end

section
/-! What each operation does to ACC (70_reset_and_hazards.md R267, 40_crc.md R134). -/

namespace Sys2Proof.Machine

/-- A read leaves ACC alone (20_memory.md R58). -/
theorem acc_of_readOutcome {op : State → Result} {s t : State} (h : ReadOutcome op s t) : t.acc = s.acc := by
  cases h <;> rfl

/-- What CRC.VERIFY leaves in ACC (40_crc.md R129). -/
theorem acc_of_execCrcVerify {s t : State} (h : execCrcVerify s = .next t) :
    t.acc = if s.rxlen.toNat < 2 then s.acc else crc16 (frameBody (rxFrame s)) := by
  cases (execCrcVerify_eq s).symm.trans h
  exact apply_ite State.acc _ _ _

/-- RX.PUSH leaves ACC alone (42_buffers.md R162). -/
theorem acc_of_execRxPush {b : Byte} {s t : State} (h : execRxPush b s = .next t) : t.acc = s.acc := by
  obtain ⟨-, rfl⟩ := execRxPush_cases h
  rfl

/-- CHECK writes ACC from S6 on, and STATUS tells whether it got there (43_check.md R182). -/
theorem acc_of_checkWith {minLength : Nat} {s t : State} (h : checkWith minLength s = .next t) :
    t.acc = if t.status ∈ ([0x02, 0x25, 0x26] : List Byte) then crc16 (frameBody (rxFrame s)) else s.acc := by
  cases (checkWith_eq_checked minLength s).symm.trans h
  exact if_congr (status_checked_mem_crcStage _ s).symm rfl rfl

/-- No argument error has the code ST_BUILT (60_exceptions.md R232, R233). -/
theorem conditionCode_ne_built_of_argCheck {kind : RequestKind} {addr : Byte} {n : Nat} {c : Condition}
    (h : argCheck kind addr n = some c) : conditionCode c ≠ 0x01 := by
  have hcode := argCheck_some_code h
  intro hc
  rw [hc] at hcode
  exact absurd hcode (by decide)

/-- A BUILD that latches a frame leaves in ACC the CRC at the end of that frame, and STATUS tells whether it did
(41_build.md R144, R150, R151). The hypothesis is what both `execBuildRd_cases` and `execBuildWr_cases` conclude. -/
theorem acc_of_build {kind : RequestKind} {addr : Byte} {n : Nat} {start : Word} {bc : Byte} {frame : List Byte}
    {s t : State} (hw : Memory.wf s.txbuf) (hl : argCheck kind addr n = none → frame.length ≤ 255)
    (h : (∃ c, argCheck kind addr n = some c ∧
        t = { dropContext { clearResult s with txlen := 0 } with status := conditionCode c }) ∨
      (argCheck kind addr n = none ∧ t = latchRequest kind addr start bc frame s)) :
    t.acc = if t.status = 0x01 then frameCrc (txFrame t) else s.acc := by
  rcases h with ⟨c, hc, rfl⟩ | ⟨hok, rfl⟩
  · exact (if_neg (conditionCode_ne_built_of_argCheck hc)).symm
  · have hbuilt : (latchRequest kind addr start bc frame s).status = 0x01 := rfl
    rw [if_pos hbuilt, txFrame_latchRequest hw (hl hok), latchRequest_acc]

/-- An accepted write request fits TXBUF (41_build.md R141, R149). -/
theorem length_writeRequest_le {addr : Byte} {data : List Byte} (h : argCheck .write addr data.length = none)
    (start : Word) : (writeRequest addr start data).length ≤ 255 := by
  obtain ⟨-, -, -, hmax⟩ := (argCheck_eq_none_iff _ _ _).mp h
  change data.length ≤ 246 at hmax
  rw [length_writeRequest]
  omega

/-- Settles O46: by cases on the operation, from what each of them can answer. -/
theorem accumulatorClobberIsLimited : Obligations.AccumulatorClobberIsLimited := by
  intro i s t hw h
  cases i with
  | crcInit => cases h; rfl
  | crcByte b => cases h; rfl
  | crcRd => cases h; rfl
  | buildRd addr start bc => exact acc_of_build hw (fun _ => by simp) (execBuildRd_cases h)
  | crcVerify => exact acc_of_execCrcVerify h
  | buildWr addr start data =>
    exact acc_of_build hw (fun hok => length_writeRequest_le hok start) (execBuildWr_cases h)
  | rxClr => cases h; rfl
  | rxPush b => exact acc_of_execRxPush h
  | txRd k => exact acc_of_readOutcome (readOutcome_execTxRd h)
  | resRd k => exact acc_of_readOutcome (readOutcome_execResRd h)
  | check => exact acc_of_checkWith h
  | excDec b => cases h; rfl
  | statRd n => exact acc_of_readOutcome (readOutcome_execStatRd h)

end Sys2Proof.Machine
end
